-- ==== Sys2Proof/Word.lean ====
section
/-!
DEFINITION. The plain data every other file is written in: the byte, the colour entry in wire
order (spec/10_state.md R22), the eight output lines (R28, R33), and the sparse memory with its one
canonical form. No operation of the machine stands here.
-/

namespace Sys2Proof

/-- An 8-bit value: a palette index, a colour channel, a transmitted byte (spec/00_scope.md R14). -/
abbrev Byte := BitVec 8

/-- A palette entry, "three 8-bit channel values stored in a fixed wire order (green, red, blue)":
byte 0 is green, byte 1 red, byte 2 blue (spec/10_state.md R22). -/
structure Color where
  g : Byte
  r : Byte
  b : Byte
deriving DecidableEq, Repr, Inhabited

/-- The entry `(G,R,B) = (0,0,0)`, the default of every entry of `PALETTE_INIT` (spec/00_scope.md R12). -/
abbrev Color.black : Color := ⟨0, 0, 0⟩

/-- One thing for each of the eight output lines / strips `0..7` (spec/00_scope.md R10): the eight
strips of `FBM` (R25) and the eight `SHIFT` registers (R27, R28). -/
structure Lanes (α : Type) where
  l0 : α
  l1 : α
  l2 : α
  l3 : α
  l4 : α
  l5 : α
  l6 : α
  l7 : α
deriving DecidableEq, Repr

/-- A memory as plain data: the (index, element) pairs whose element differs from what an unlisted
index reads as. `Memory Byte` is `List Host.Cell`. -/
abbrev Memory (α : Type) := List (Nat × α)

/-- The one canonical form of a memory with the valid indices `0 .. n-1` in which an unlisted index
`a` reads as `d a`: indices strictly rising, all valid, and no element listed that equals its
default. So equal memories are equal lists. -/
abbrev Memory.wf {α : Type} [DecidableEq α] (d : Nat → α) (n : Nat) (m : Memory α) : Prop :=
  m.Pairwise (fun c c' => c.1 < c'.1) ∧ ∀ c ∈ m, c.1 < n ∧ c.2 ≠ d c.1

end Sys2Proof
end

