-- ==== Sys2Proof/Syntax.lean ====
section
/-!
DEFINITION. The sixteen commands of SLD command set 1.0, one constructor for each row of
spec/opcode_table.json, each operand at the full width of its field (spec/30_encoding.md R72, R73).
-/

namespace Sys2Proof

/-- A command with its operands (spec/30_encoding.md R71, R75). -/
inductive Instr where
  /-- `PAL.SETC idx, r, g, b` (spec/40_palette.md R91). -/
  | palSetc (idx r g b : Byte)
  /-- `PAL.SETP idx, rgb` (R92). -/
  | palSetp (idx : Byte) (rgb : BitVec 24)
  /-- `PAL.SETHSV idx, h, s, v` (R93). -/
  | palSethsv (idx h s v : Byte)
  /-- `PAL.CYCLE num` (R96). -/
  | palCycle (num : BitVec 16)
  /-- `PAL.GET idx` (R98). -/
  | palGet (idx : Byte)
  /-- `FB1.FILL val` (spec/41_framebuffer.md R111). -/
  | fb1Fill (val : Byte)
  /-- `FB1.SET pos, val` (R112). -/
  | fb1Set (pos : BitVec 16) (val : Byte)
  /-- `FBM.FILL val` (R114). -/
  | fbmFill (val : Byte)
  /-- `FBM.SET strip, pos, val` (R115). -/
  | fbmSet (strip : Byte) (pos : BitVec 16) (val : Byte)
  /-- `FBM.GET strip, pos` (R116). -/
  | fbmGet (strip : Byte) (pos : BitVec 16)
  /-- `FBM.SETXY x, y, val` (spec/42_transform.md R137). -/
  | fbmSetxy (x y val : Byte)
  /-- `FBM.GETXY x, y` (R138). -/
  | fbmGetxy (x y : Byte)
  /-- `XF.ROWCOL x, y` (R136). -/
  | xfRowcol (x y : Byte)
  /-- `XF.LATCHLEN n` (R140). -/
  | xfLatchlen (n : BitVec 16)
  /-- `RENDER.S` (spec/43_protocol_driver.md R153). -/
  | renderS
  /-- `RENDER.M` (R156). -/
  | renderM
deriving DecidableEq, Repr

end Sys2Proof
end

