-- ==== Sys2Proof/WellFormed.lean ====
section
/-!
DEFINITION. The textual form of a command (spec/30_encoding.md R80) and the check an assembler makes
on it: the right number of operands, each fitting its field. A term of `Instr` carries its operands
at the width of their fields, so a term that does not fit cannot be written; the check is made where
a too-wide operand can be written, on the textual form.
-/

namespace Sys2Proof

/-- The sixteen mnemonics (spec/30_encoding.md R75). -/
inductive Mnemonic where
  | palSetc | palSetp | palSethsv | palCycle | palGet
  | fb1Fill | fb1Set
  | fbmFill | fbmSet | fbmGet | fbmSetxy | fbmGetxy
  | xfRowcol | xfLatchlen
  | renderS | renderM
deriving DecidableEq, Repr

/-- The operand fields of each command in the order of its textual form, as (bits, position of bit 0
in `arg`): spec/30_encoding.md R71, R73, R80. -/
def Mnemonic.fields : Mnemonic → List (Nat × Nat)
  | .palSetc => [(8, 24), (8, 16), (8, 8), (8, 0)]
  | .palSetp => [(8, 24), (24, 0)]
  | .palSethsv => [(8, 24), (8, 16), (8, 8), (8, 0)]
  | .palCycle => [(16, 0)]
  | .palGet => [(8, 24)]
  | .fb1Fill => [(8, 0)]
  | .fb1Set => [(16, 8), (8, 0)]
  | .fbmFill => [(8, 0)]
  | .fbmSet => [(8, 24), (16, 8), (8, 0)]
  | .fbmGet => [(8, 24), (16, 8)]
  | .fbmSetxy => [(8, 24), (8, 16), (8, 0)]
  | .fbmGetxy => [(8, 24), (8, 16)]
  | .xfRowcol => [(8, 24), (8, 16)]
  | .xfLatchlen => [(16, 0)]
  | .renderS => []
  | .renderM => []

/-- `MNEMONIC operand, operand, ...` with every operand a number (spec/30_encoding.md R80). -/
structure SourceLine where
  mnemonic : Mnemonic
  operands : List Nat
deriving DecidableEq, Repr

/-- Every operand is given and fits its field: "An assembler must refuse an operand that does not
fit its field"; an operand that fits but is out of its valid range is not refused (R80). -/
def SourceLine.wf (l : SourceLine) : Bool :=
  l.operands.length == l.mnemonic.fields.length &&
    (l.operands.zip l.mnemonic.fields).all fun (v, f) => decide (v < 2 ^ f.1)

/-- The mnemonic of a command. -/
def Instr.mnemonic : Instr → Mnemonic
  | .palSetc .. => .palSetc
  | .palSetp .. => .palSetp
  | .palSethsv .. => .palSethsv
  | .palCycle .. => .palCycle
  | .palGet .. => .palGet
  | .fb1Fill .. => .fb1Fill
  | .fb1Set .. => .fb1Set
  | .fbmFill .. => .fbmFill
  | .fbmSet .. => .fbmSet
  | .fbmGet .. => .fbmGet
  | .fbmSetxy .. => .fbmSetxy
  | .fbmGetxy .. => .fbmGetxy
  | .xfRowcol .. => .xfRowcol
  | .xfLatchlen .. => .xfLatchlen
  | .renderS => .renderS
  | .renderM => .renderM

/-- The operands of a command in the order of its textual form (spec/30_encoding.md R80). -/
def Instr.operands : Instr → List Nat
  | .palSetc idx r g b => [idx.toNat, r.toNat, g.toNat, b.toNat]
  | .palSetp idx rgb => [idx.toNat, rgb.toNat]
  | .palSethsv idx h s v => [idx.toNat, h.toNat, s.toNat, v.toNat]
  | .palCycle num => [num.toNat]
  | .palGet idx => [idx.toNat]
  | .fb1Fill val => [val.toNat]
  | .fb1Set pos val => [pos.toNat, val.toNat]
  | .fbmFill val => [val.toNat]
  | .fbmSet strip pos val => [strip.toNat, pos.toNat, val.toNat]
  | .fbmGet strip pos => [strip.toNat, pos.toNat]
  | .fbmSetxy x y val => [x.toNat, y.toNat, val.toNat]
  | .fbmGetxy x y => [x.toNat, y.toNat]
  | .xfRowcol x y => [x.toNat, y.toNat]
  | .xfLatchlen n => [n.toNat]
  | .renderS => []
  | .renderM => []

/-- The textual form of a command. -/
def Instr.source (i : Instr) : SourceLine := ⟨i.mnemonic, i.operands⟩

/-- A command is well-formed when the assembler takes its textual form. -/
abbrev Instr.WellFormed (i : Instr) : Prop := i.source.wf = true

end Sys2Proof
end

