-- ==== Sys2Proof/Decode.lean ====
section
/-!
DEFINITION. The encoding of the commands (spec/30_encoding.md): the opcode map, the reserved bits of
each format, the decoder (total on all `2^40` words, rejecting by name), and, after it, the encoder
and the assembler.
-/

namespace Sys2Proof

/-- A command word `{op, arg}`: `op` in bits 39:32, `arg` in bits 31:0 (spec/30_encoding.md R70). -/
abbrev CommandWord := BitVec 40

/-- The eleven layouts of `arg` (spec/30_encoding.md R71). -/
inductive Format where
  | Z | C | K | A | N | V | Q | S | SG | X | XG
deriving DecidableEq, Repr

/-- Why a word is no command (spec/60_exceptions.md R194). Both raise `IllegalCommand`. -/
inductive Reject where
  /-- `op` is not one of the sixteen assigned opcodes (spec/30_encoding.md R77). -/
  | unassignedOpcode
  /-- `op` is assigned and a reserved bit of its format is 1 (R74). -/
  | reservedBit
deriving DecidableEq, Repr

/-- The opcode of each command, the column `op` of spec/30_encoding.md R75. -/
def Mnemonic.opcode : Mnemonic → Byte
  | .palSetc => 0x10#8
  | .palSetp => 0x11#8
  | .palSethsv => 0x12#8
  | .palCycle => 0x13#8
  | .palGet => 0x14#8
  | .fb1Fill => 0x20#8
  | .fb1Set => 0x21#8
  | .fbmFill => 0x30#8
  | .fbmSet => 0x31#8
  | .fbmGet => 0x32#8
  | .fbmSetxy => 0x33#8
  | .fbmGetxy => 0x34#8
  | .xfRowcol => 0x40#8
  | .xfLatchlen => 0x41#8
  | .renderS => 0x50#8
  | .renderM => 0x51#8

/-- The format of each command, the column `format` of spec/30_encoding.md R75. -/
def Mnemonic.format : Mnemonic → Format
  | .palSetc => .C
  | .palSetp => .K
  | .palSethsv => .C
  | .palCycle => .N
  | .palGet => .A
  | .fb1Fill => .V
  | .fb1Set => .Q
  | .fbmFill => .V
  | .fbmSet => .S
  | .fbmGet => .SG
  | .fbmSetxy => .X
  | .fbmGetxy => .XG
  | .xfRowcol => .XG
  | .xfLatchlen => .N
  | .renderS => .Z
  | .renderM => .Z

/-- The reserved bits of `arg`, the `0` cells of spec/30_encoding.md R71, which are one field in every
format: its lowest bit and its number of bits. -/
def Format.reserved : Format → Nat × Nat
  | .Z => (0, 32)
  | .C => (0, 0)
  | .K => (0, 0)
  | .A => (0, 24)
  | .N => (16, 16)
  | .V => (8, 24)
  | .Q => (24, 8)
  | .S => (0, 0)
  | .SG => (0, 8)
  | .X => (8, 8)
  | .XG => (0, 16)

/-- "Reserved bits must be zero" (spec/30_encoding.md R74). -/
def reservedZero (f : Format) (arg : BitVec 32) : Bool :=
  decide (arg.extractLsb' f.reserved.1 f.reserved.2 = 0)

/-- The rows of the opcode map, in the order of spec/30_encoding.md R75. -/
def Mnemonic.all : List Mnemonic :=
  [.palSetc, .palSetp, .palSethsv, .palCycle, .palGet, .fb1Fill, .fb1Set, .fbmFill, .fbmSet, .fbmGet,
    .fbmSetxy, .fbmGetxy, .xfRowcol, .xfLatchlen, .renderS, .renderM]

/-- `op` looked up in the opcode map: one of the sixteen assigned values, or unassigned
(spec/30_encoding.md R76, R77). -/
def opcodeMnemonic (op : Byte) : Option Mnemonic :=
  Mnemonic.all.find? fun m => decide (m.opcode = op)

/-- The operands, each an unsigned field of `arg` at its full width (spec/30_encoding.md R71, R72). -/
def Mnemonic.build (m : Mnemonic) (arg : BitVec 32) : Instr :=
  match m with
  | .palSetc =>
    .palSetc (arg.extractLsb' 24 8) (arg.extractLsb' 16 8) (arg.extractLsb' 8 8) (arg.extractLsb' 0 8)
  | .palSetp => .palSetp (arg.extractLsb' 24 8) (arg.extractLsb' 0 24)
  | .palSethsv =>
    .palSethsv (arg.extractLsb' 24 8) (arg.extractLsb' 16 8) (arg.extractLsb' 8 8) (arg.extractLsb' 0 8)
  | .palCycle => .palCycle (arg.extractLsb' 0 16)
  | .palGet => .palGet (arg.extractLsb' 24 8)
  | .fb1Fill => .fb1Fill (arg.extractLsb' 0 8)
  | .fb1Set => .fb1Set (arg.extractLsb' 8 16) (arg.extractLsb' 0 8)
  | .fbmFill => .fbmFill (arg.extractLsb' 0 8)
  | .fbmSet => .fbmSet (arg.extractLsb' 24 8) (arg.extractLsb' 8 16) (arg.extractLsb' 0 8)
  | .fbmGet => .fbmGet (arg.extractLsb' 24 8) (arg.extractLsb' 8 16)
  | .fbmSetxy => .fbmSetxy (arg.extractLsb' 24 8) (arg.extractLsb' 16 8) (arg.extractLsb' 0 8)
  | .fbmGetxy => .fbmGetxy (arg.extractLsb' 24 8) (arg.extractLsb' 16 8)
  | .xfRowcol => .xfRowcol (arg.extractLsb' 24 8) (arg.extractLsb' 16 8)
  | .xfLatchlen => .xfLatchlen (arg.extractLsb' 0 16)
  | .renderS => .renderS
  | .renderM => .renderM

/-- Decoding from the two parts of the word: look `op` up, then check the reserved bits of the
command's format, then read the operands (spec/30_encoding.md R76). -/
def decodeParts (op : Byte) (arg : BitVec 32) : Except Reject Instr :=
  match opcodeMnemonic op with
  | none => .error .unassignedOpcode
  | some m => if reservedZero m.format arg then .ok (m.build arg) else .error .reservedBit

/-- The decoder on a whole command word. -/
def decode (w : CommandWord) : Except Reject Instr :=
  decodeParts (w.extractLsb' 32 8) (w.extractLsb' 0 32)

/-- The operand word of a command, the column `arg assembly` of spec/30_encoding.md R80. -/
def encodeArg : Instr → BitVec 32
  | .palSetc idx r g b => idx ++ r ++ g ++ b
  | .palSetp idx rgb => idx ++ rgb
  | .palSethsv idx h s v => idx ++ h ++ s ++ v
  | .palCycle num => 0#16 ++ num
  | .palGet idx => idx ++ 0#24
  | .fb1Fill val => 0#24 ++ val
  | .fb1Set pos val => 0#8 ++ pos ++ val
  | .fbmFill val => 0#24 ++ val
  | .fbmSet strip pos val => strip ++ pos ++ val
  | .fbmGet strip pos => strip ++ pos ++ 0#8
  | .fbmSetxy x y val => x ++ y ++ 0#8 ++ val
  | .fbmGetxy x y => x ++ y ++ 0#16
  | .xfRowcol x y => x ++ y ++ 0#16
  | .xfLatchlen n => 0#16 ++ n
  | .renderS => 0#32
  | .renderM => 0#32

/-- The encoder: the command word of a command. -/
def encode (i : Instr) : CommandWord := i.mnemonic.opcode ++ encodeArg i

/-- The operand word of a textual line: each operand at its field's position, the rest zero. -/
def SourceLine.arg (l : SourceLine) : BitVec 32 :=
  (l.operands.zip l.mnemonic.fields).foldl (fun a (v, f) => a + BitVec.ofNat 32 (2 ^ f.2 * v)) 0

/-- The assembler of spec/30_encoding.md R80: refuse a line that is not well-formed, else give its
command word. -/
def assemble (l : SourceLine) : Option CommandWord :=
  if l.wf then some (l.mnemonic.opcode ++ l.arg) else none

/-- What the decoder reads from a word numbered as spec/opcode_table.json numbers it: one 40-bit word
`{op, arg}`, bit 0 the least significant. Bits from `nbits` on are zero. -/
def decodeTableWord (nbits w : Nat) : Option Instr :=
  match decode (BitVec.ofNat 40 (w % 2 ^ nbits)) with
  | .ok i => some i
  | .error _ => none

end Sys2Proof
end

