-- ==== Sys2Proof/Config.lean ====
section
/-!
DEFINITION. The implementation parameters of spec/00_scope.md R7 to R13 as one record of plain data,
fixed at construction (R34: constants of the instance, not registers), their default values, and
the one uninterpreted value of the model, the HSV conversion of an implementation that does not take
the spec's reference function.
-/

namespace Sys2Proof

/-- Which HSV conversion the implementation has (spec/00_scope.md R13, decision D9: `HSV2RGB` is a
parameter). `reference` is the spec's default `HSV2RGB_REF` (spec/40_palette.md R94); `other n` is
an arbitrary conversion of which only the property `achromatic` (R95) is known. -/
inductive HsvChoice where
  | reference
  | other (n : Nat)
deriving DecidableEq, Repr

/-- The result triple, in wire order, of the arbitrary conversion number `n` for `s > 0`. It has no
body: nothing can be proved of its values (spec/93_implementation_defined.md U12; log entry 2). -/
opaque Config.hsvFree (n : Nat) (h s v : Byte) : Color

/-- The parameters of one implementation (spec/00_scope.md section 4), with their ranges. -/
structure Config where
  /-- `P`, the palette capacity (R7). -/
  P : Nat
  /-- `N1`, the length of the single-strip frame buffer (R8). -/
  N1 : Nat
  /-- `NM`, the length of each of the eight multi-strip frame buffers (R9). -/
  NM : Nat
  /-- `LINE_MASK`: bit `k` is 1 when line `k` is active in multi-strip render (R11). -/
  lineMask : Byte
  /-- `SINGLE_LINE`, the line the single-strip render drives (R11). -/
  singleLine : Fin 8
  /-- `PALETTE_INIT` (R12): the entries that differ from the default `(0,0,0)`. -/
  paletteInit : Memory Color
  /-- `HSV2RGB` (R13). -/
  hsv : HsvChoice
  P_range : 1 ≤ P ∧ P ≤ 256
  N1_range : 1 ≤ N1 ∧ N1 ≤ 65535
  NM_range : 1 ≤ NM ∧ NM ≤ 65535
  paletteInit_wf : Memory.wf (fun _ => Color.black) P paletteInit
deriving DecidableEq, Repr

/-- The default parameters, the last table of spec/00_scope.md section 4. -/
def Config.standard : Config where
  P := 256
  N1 := 128
  NM := 128
  lineMask := 0xFF
  singleLine := 0
  paletteInit := []
  hsv := .reference
  P_range := by decide
  N1_range := by decide
  NM_range := by decide
  paletteInit_wf := by decide

end Sys2Proof
end

