-- ==== Sys2Proof/Machine/State.lean ====
section
/-!
DEFINITION. The state of the block (spec/10_state.md R20), as plain data: the three memories, the
status and response registers, the command register and the sequencer's working registers, the
output pins; and beside them what is not architectural state: the parameters (R34), the values the
host will drive on the input ports (R31), and the two records the model keeps for observation (R38,
spec/00_scope.md R16). Then the reset state (R36) and the reasons a step of the model can stop.
-/

namespace Sys2Proof.Machine

/-- Which part of a frame a render is sending: the register `STAGE` (spec/10_state.md R27). -/
inductive Stage where
  | none | payload | latch
deriving DecidableEq, Repr

/-- The per-byte state machine: the register `PHASE` (spec/10_state.md R27, spec/44_bit_transmit.md R174). -/
inductive Phase where
  | idle | setData | clockHigh | clockLow
deriving DecidableEq, Repr

/-- One entry of the wire trace, a pin state `(LED_CLK, LED_DATA, LED_SEL)` (spec/44_bit_transmit.md R177). -/
structure Pins where
  clk : Bool
  data : Byte
  sel : Byte
deriving DecidableEq, Repr

/-- One response (spec/60_exceptions.md R192, R193). -/
structure Response where
  code : Byte
  data : BitVec 32
deriving DecidableEq, Repr

/-- What the host drives on the input ports during one step (spec/10_state.md R31), and how far the
model takes a command accepted in that step. -/
structure HostInput where
  /-- `RST`. -/
  rst : Bool
  /-- `CMD_VALID`. -/
  cmdValid : Bool
  /-- `CMD_OP`. -/
  cmdOp : Byte
  /-- `CMD_ARG`. -/
  cmdArg : BitVec 32
  /-- No port: true takes an accepted command to its completion in this one step, the atomic
  transition spec/10_state.md R35 allows; false only accepts it, and the steps that follow take the
  block phase by phase, with the reset of spec/70_reset_and_hazards.md R223 possible between any two
  of them (log entry 4). -/
  whole : Bool
deriving DecidableEq, Repr

/-- The host drives nothing: `RST = 0`, `CMD_VALID = 0`. -/
abbrev HostInput.idle : HostInput := ⟨false, false, 0, 0, true⟩

/-- The causes of a fault response, the rows of spec/60_exceptions.md R191. A fault response is an
ordinary next state of the machine, not a stop of the model. -/
inductive FaultCause where
  | illegalCommand
  | paletteIndexOutOfBounds
  | coordinateOutOfBounds
  | positionOutOfBounds
  | cycleCountOutOfBounds
  | geometryUnsupported
deriving DecidableEq, Repr

/-- The reasons a step of the model stops. No state that meets the invariant `BlockInv` of Safety.lean
raises one. -/
inductive Fault where
  /-- Raised by a render (whole, or at the start of a slot) that would read the palette with an index
  `>= P` from a frame buffer: "must be a model fault, never a value" (spec/43_protocol_driver.md
  R158). Safe: no state that keeps `INV_IDX` reaches it. -/
  | paletteIndexAtRender
  /-- Raised by a phase step whose sequencer registers no rule produces: `STAGE` not `NONE` while
  `CMDR` holds no render, or `POS`, `COMP` outside the ranges of spec/10_state.md R27. Safe: no run
  reaches such a state. -/
  | sequencerState
deriving DecidableEq, Repr

/-- The reasons the model has no meaning for an instruction. -/
inductive Refusal where
  /-- Raised by an arm of `exec` whose instruction has no meaning yet. Safe. No arm raises it. -/
  | notModelled (mnemonic : String)
deriving DecidableEq, Repr

/-- The state of the machine. -/
structure State where
  /-- The parameters (spec/00_scope.md R7 to R13): constants, written by nothing. -/
  cfg : Config
  /-- `PAL` (R21, R22): the entries that differ from `PALETTE_INIT`. -/
  pal : List (Nat × Color)
  /-- `FB1` (R24): the elements that differ from 0. -/
  fb1 : List Host.Cell
  /-- `FBM` (R25): for each strip, the elements that differ from 0. -/
  fbm : Lanes (List Host.Cell)
  /-- `FAULT` (R30). -/
  fault : Byte
  /-- `BUSY` (R30). -/
  busy : Bool
  /-- `RSP_VALID` (R32). -/
  rspValid : Bool
  /-- `RSP_CODE` (R32). -/
  rspCode : Byte
  /-- `RSP_DATA` (R32). -/
  rspData : BitVec 32
  /-- `CMDR.OP` (R27). -/
  cmdrOp : Byte
  /-- `CMDR.ARG` (R27). -/
  cmdrArg : BitVec 32
  /-- `STAGE` (R27). -/
  stage : Stage
  /-- `POS` (R27). -/
  pos : BitVec 16
  /-- `COMP` (R27). -/
  comp : BitVec 2
  /-- `LCNT` (R27). -/
  lcnt : BitVec 12
  /-- `ACT` (R27). -/
  act : Byte
  /-- `SHIFT[0..7]` (R27, R28). -/
  shift : Lanes Byte
  /-- `BITN` (R27). -/
  bitn : BitVec 3
  /-- `PHASE` (R27). -/
  phase : Phase
  /-- `LED_CLK` (R33). -/
  ledClk : Bool
  /-- `LED_DATA[7:0]` (R33). -/
  ledData : Byte
  /-- `LED_SEL[7:0]` (R33). -/
  ledSel : Byte
  /-- The input ports over the coming steps, one entry a step, the next one first; after the last the
  host drives nothing (R31, spec/00_scope.md R15). -/
  host : List HostInput
  /-- The wire trace `WIRE`, NEWEST FIRST (spec/44_bit_transmit.md R177): the model's observation. -/
  wire : List Pins
  /-- The responses given, NEWEST FIRST (spec/00_scope.md R16): the model's observation. -/
  responses : List Response
deriving DecidableEq, Repr

/-- What a step of the machine, and a command's meaning, answers. -/
abbrev Result := Host.Outcome State Fault Refusal

/-- The state right after a power-up reset of an implementation with the parameters `c`: the table of
spec/10_state.md R36, nothing presented by the host yet, no response, and the wire trace holding the
one pin state a reset records (spec/70_reset_and_hazards.md R221, R222). -/
def State.resetOf (c : Config) : State where
  cfg := c
  pal := []
  fb1 := []
  fbm := ⟨[], [], [], [], [], [], [], []⟩
  fault := 0x00
  busy := false
  rspValid := false
  rspCode := 0x00
  rspData := 0x00000000
  cmdrOp := 0
  cmdrArg := 0
  stage := .none
  pos := 0
  comp := 0
  lcnt := 0
  act := 0
  shift := ⟨0, 0, 0, 0, 0, 0, 0, 0⟩
  bitn := 0
  phase := .idle
  ledClk := false
  ledData := 0x00
  ledSel := 0x00
  host := []
  wire := [⟨false, 0x00, 0x00⟩]
  responses := []

/-- The machine right after reset, with the default parameters. -/
def State.reset : State := State.resetOf Config.standard

end Sys2Proof.Machine
end

