-- ==== Sys2Proof/Machine/Flags.lean ====
section
/-!
DEFINITION. The status of the block (spec/10_state.md R30): the code and the sticky `FAULT` bit of each
fault cause, setting a bit, and the derived output `CMD_READY`. There are no arithmetic flags.
-/

namespace Sys2Proof.Machine

/-- The value of `RSP_CODE` for a cause (spec/60_exceptions.md R191). -/
def FaultCause.code : FaultCause → Byte
  | .illegalCommand => 0x01
  | .paletteIndexOutOfBounds => 0x02
  | .coordinateOutOfBounds => 0x03
  | .positionOutOfBounds => 0x04
  | .cycleCountOutOfBounds => 0x05
  | .geometryUnsupported => 0x06

/-- The position of a cause's sticky bit in `FAULT` (spec/10_state.md R30, spec/60_exceptions.md R191). -/
def FaultCause.bit : FaultCause → Nat
  | .illegalCommand => 0
  | .paletteIndexOutOfBounds => 1
  | .coordinateOutOfBounds => 2
  | .positionOutOfBounds => 3
  | .cycleCountOutOfBounds => 4
  | .geometryUnsupported => 5

/-- `FAULT` with the cause's bit set and every other bit as before (spec/60_exceptions.md R193). -/
def setFaultBit (c : FaultCause) (fault : Byte) : Byte := fault ||| (1#8 <<< c.bit)

/-- `CMD_READY = (BUSY = 0) and (RST = 0)` (spec/10_state.md R32). -/
def cmdReady (s : State) (rst : Bool) : Bool := !s.busy && !rst

end Sys2Proof.Machine
end

