-- ==== Sys2Proof/Machine/Ops.lean ====
section
/-!
DEFINITION. The shared operations of the machine: lanes, the sparse memory, the accessors of `PAL`,
`FB1` and `FBM` (spec/20_memory.md R50), the acceptance of a command (spec/10_state.md R35), normal
completion, the fault entry, which is this hardware's one exception (spec/60_exceptions.md R192, R193),
and reset (spec/70_reset_and_hazards.md R221). There is no return from a fault: "there is nothing to
return from" (spec/60_exceptions.md R202).
-/

namespace Sys2Proof

/-- The thing of lane `k`. -/
def Lanes.get {α : Type} (l : Lanes α) (k : Fin 8) : α :=
  match k with
  | 0 => l.l0
  | 1 => l.l1
  | 2 => l.l2
  | 3 => l.l3
  | 4 => l.l4
  | 5 => l.l5
  | 6 => l.l6
  | 7 => l.l7

/-- Lane `k` replaced. -/
def Lanes.set {α : Type} (l : Lanes α) (k : Fin 8) (v : α) : Lanes α :=
  match k with
  | 0 => { l with l0 := v }
  | 1 => { l with l1 := v }
  | 2 => { l with l2 := v }
  | 3 => { l with l3 := v }
  | 4 => { l with l4 := v }
  | 5 => { l with l5 := v }
  | 6 => { l with l6 := v }
  | 7 => { l with l7 := v }

/-- Every lane given by a function of its number. -/
def Lanes.ofFn {α : Type} (f : Fin 8 → α) : Lanes α :=
  ⟨f 0, f 1, f 2, f 3, f 4, f 5, f 6, f 7⟩

/-- The byte with one bit for each line: bit `k` is `f k`. -/
def byteOfLines (f : Fin 8 → Bool) : Byte :=
  BitVec.ofBoolListLE [f 0, f 1, f 2, f 3, f 4, f 5, f 6, f 7]

/-- Bit `k` of a line mask (`LED_SEL[k]`, `ACT[k]`, `LINE_MASK[k]`, `LED_DATA[k]`). -/
def lineBit (v : Byte) (k : Fin 8) : Bool := v.getLsbD k.val

/-- The element at index `a`; an index that is not listed reads as `d`. -/
def Memory.read {α : Type} (d : α) : Memory α → Nat → α
  | [], _ => d
  | (b, v) :: m, a => if a = b then v else Memory.read d m a

/-- The memory with `v` stored at index `a`, in canonical form again: an element equal to its default
`d` is not listed. -/
def Memory.write {α : Type} [DecidableEq α] (d : α) (a : Nat) (v : α) : Memory α → Memory α
  | [] => if v = d then [] else [(a, v)]
  | (b, w) :: m =>
    if a < b then (if v = d then (b, w) :: m else (a, v) :: (b, w) :: m)
    else if a = b then (if v = d then m else (a, v) :: m)
    else (b, w) :: Memory.write d a v m

/-- The memory of `n` elements all equal to `v`. -/
def Memory.fill {α : Type} [DecidableEq α] (d : α) (n : Nat) (v : α) : Memory α :=
  if v = d then [] else (List.range n).map fun a => (a, v)

namespace Machine

/-- `PALETTE_INIT[i]` (spec/00_scope.md R12). -/
def paletteInitAt (c : Config) (i : Nat) : Color := Memory.read Color.black c.paletteInit i

/-- `PAL[i]` (spec/00_scope.md R14, spec/10_state.md R21). -/
def palRead (s : State) (i : Nat) : Color := Memory.read (paletteInitAt s.cfg i) s.pal i

/-- `PAL[i] <- e`, the whole 24-bit entry at once (spec/20_memory.md R54). -/
def palWrite (i : Nat) (e : Color) (s : State) : State :=
  { s with pal := Memory.write (paletteInitAt s.cfg i) i e s.pal }

/-- `FB1[p]` (spec/10_state.md R24). -/
def fb1Read (s : State) (p : Nat) : Byte := Memory.read 0 s.fb1 p

/-- `FB1[p] <- v`. -/
def fb1Write (p : Nat) (v : Byte) (s : State) : State :=
  { s with fb1 := Memory.write 0 p v s.fb1 }

/-- `FB1[p] <- v` for every `p` from 0 to `N1 - 1` (spec/41_framebuffer.md R111). -/
def fb1FillAll (v : Byte) (s : State) : State :=
  { s with fb1 := Memory.fill 0 s.cfg.N1 v }

/-- `FBM[k][p]` (spec/10_state.md R25). -/
def fbmRead (s : State) (k : Fin 8) (p : Nat) : Byte := Memory.read 0 (s.fbm.get k) p

/-- `FBM[k][p] <- v`. -/
def fbmWrite (k : Fin 8) (p : Nat) (v : Byte) (s : State) : State :=
  { s with fbm := s.fbm.set k (Memory.write 0 p v (s.fbm.get k)) }

/-- `FBM[k][p] <- v` for all eight strips and every `p` from 0 to `NM - 1` (spec/41_framebuffer.md R114). -/
def fbmFillAll (v : Byte) (s : State) : State :=
  { s with fbm := Lanes.ofFn fun _ => Memory.fill 0 s.cfg.NM v }

/-- Acceptance of a command (spec/10_state.md R35). -/
def accept (op : Byte) (arg : BitVec 32) (s : State) : State :=
  { s with cmdrOp := op, cmdrArg := arg, busy := true, rspValid := false }

/-- The command in `CMDR`, decoded (spec/30_encoding.md R76). -/
def fetch (s : State) : Except Reject Instr := decodeParts s.cmdrOp s.cmdrArg

/-- `respond(d)`: normal completion (spec/60_exceptions.md R192). -/
def respond (d : BitVec 32) (s : State) : State :=
  { s with
    rspCode := 0x00
    rspData := d
    rspValid := true
    busy := false
    responses := ⟨0x00, d⟩ :: s.responses }

/-- `raise F`: fault entry (spec/60_exceptions.md R193). -/
def raise (c : FaultCause) (s : State) : State :=
  { s with
    fault := setFaultBit c s.fault
    rspCode := c.code
    rspData := 0x00000000
    rspValid := true
    busy := false
    responses := ⟨c.code, 0x00000000⟩ :: s.responses }

/-- The pins of the block (spec/10_state.md R33). -/
def pins (s : State) : Pins := ⟨s.ledClk, s.ledData, s.ledSel⟩

/-- `record_pins()` (spec/44_bit_transmit.md R173, R177). -/
def recordPins (s : State) : State := { s with wire := pins s :: s.wire }

/-- The effect of reset (spec/70_reset_and_hazards.md R221): every piece of state at its reset value and
the pin state `(0, 0x00, 0x00)` appended to `WIRE`. The parameters, the host's coming inputs and the
two records stay. -/
def resetBlock (s : State) : State :=
  { State.resetOf s.cfg with
    host := s.host
    wire := ⟨false, 0x00, 0x00⟩ :: s.wire
    responses := s.responses }

/-- What the host drives on the input ports in this step (spec/10_state.md R31). -/
def hostInput (s : State) : HostInput := s.host.headD HostInput.idle

/-- The step's host input taken off. -/
def consumeInput (s : State) : State := { s with host := s.host.tail }

end Machine
end Sys2Proof
end

