-- ==== Sys2Proof/Machine/Operands.lean ====
section
/-!
DEFINITION. Operands: the bound checks, each on the operand's full width (spec/20_memory.md R51 to R53,
spec/30_encoding.md R72), the parts of a packed colour (R57), and the layouts of the response data
(spec/20_memory.md R66).
-/

namespace Sys2Proof.Machine

/-- A palette index operand is valid: `idx < P` (spec/20_memory.md R51). -/
def palIndexOk (c : Config) (idx : Byte) : Bool := decide (idx.toNat < c.P)

/-- A rotate count is valid: `1 <= num <= P` (spec/40_palette.md R96). -/
def cycleCountOk (c : Config) (num : BitVec 16) : Bool := decide (1 ≤ num.toNat ∧ num.toNat ≤ c.P)

/-- A single-strip position is valid: `pos < N1` (spec/20_memory.md R52). -/
def fb1PosOk (c : Config) (pos : BitVec 16) : Bool := decide (pos.toNat < c.N1)

/-- A multi-strip `(strip, pos)` is valid: `strip < 8` and `pos < NM` (spec/20_memory.md R52). -/
def fbmPosOk (c : Config) (strip : Byte) (pos : BitVec 16) : Bool :=
  decide (strip.toNat < 8 ∧ pos.toNat < c.NM)

/-- The transform is defined on this implementation: `NM = 128` (spec/42_transform.md R134). -/
def geometryOk (c : Config) : Bool := decide (c.NM = 128)

/-- A logical pixel is on the panel: `x < 32` and `y < 32` (spec/42_transform.md R135). -/
def coordinateOk (x y : Byte) : Bool := decide (x.toNat < 32 ∧ y.toNat < 32)

/-- The strip a checked strip operand names. -/
def stripOf (strip : Byte) : Fin 8 := Fin.ofNat 8 strip.toNat

/-- `R = rgb[23:16]` (spec/20_memory.md R57). -/
def packedR (rgb : BitVec 24) : Byte := rgb.extractLsb' 16 8

/-- `G = rgb[15:8]` (spec/20_memory.md R57). -/
def packedG (rgb : BitVec 24) : Byte := rgb.extractLsb' 8 8

/-- `B = rgb[7:0]` (spec/20_memory.md R57). -/
def packedB (rgb : BitVec 24) : Byte := rgb.extractLsb' 0 8

/-- `{0x00, G, R, B}` (spec/20_memory.md R66). -/
def colorData (e : Color) : BitVec 32 := 0x00#8 ++ e.g ++ e.r ++ e.b

/-- `zext_32(index)` (spec/20_memory.md R66). -/
def indexData (v : Byte) : BitVec 32 := v.setWidth 32

/-- `{0x00, strip, position}` (spec/20_memory.md R66). -/
def placeData (strip pos : Nat) : BitVec 32 := 0x00#8 ++ BitVec.ofNat 8 strip ++ BitVec.ofNat 16 pos

end Sys2Proof.Machine
end

