-- ==== Sys2Proof/Machine/FrameBuffer.lean ====
section
/-!
DEFINITION. The frame-buffer commands addressed by position: `FB1.FILL`, `FB1.SET`, `FBM.FILL`, `FBM.SET`,
`FBM.GET` (spec/41_framebuffer.md R110 to R117).
-/

namespace Sys2Proof.Machine

/-- `FB1.FILL val` (spec/41_framebuffer.md R111). -/
def execFb1Fill (val : Byte) (s : State) : Result :=
  if palIndexOk s.cfg val then .next (respond 0 (fb1FillAll val s))
  else .next (raise .paletteIndexOutOfBounds s)

/-- `FB1.SET pos, val` (spec/41_framebuffer.md R112): the position is checked before the value. -/
def execFb1Set (pos : BitVec 16) (val : Byte) (s : State) : Result :=
  if !fb1PosOk s.cfg pos then .next (raise .positionOutOfBounds s)
  else if !palIndexOk s.cfg val then .next (raise .paletteIndexOutOfBounds s)
  else .next (respond 0 (fb1Write pos.toNat val s))

/-- `FBM.FILL val` (spec/41_framebuffer.md R114). -/
def execFbmFill (val : Byte) (s : State) : Result :=
  if palIndexOk s.cfg val then .next (respond 0 (fbmFillAll val s))
  else .next (raise .paletteIndexOutOfBounds s)

/-- `FBM.SET strip, pos, val` (spec/41_framebuffer.md R115). -/
def execFbmSet (strip : Byte) (pos : BitVec 16) (val : Byte) (s : State) : Result :=
  if !fbmPosOk s.cfg strip pos then .next (raise .positionOutOfBounds s)
  else if !palIndexOk s.cfg val then .next (raise .paletteIndexOutOfBounds s)
  else .next (respond 0 (fbmWrite (stripOf strip) pos.toNat val s))

/-- `FBM.GET strip, pos` (spec/41_framebuffer.md R116). -/
def execFbmGet (strip : Byte) (pos : BitVec 16) (s : State) : Result :=
  if !fbmPosOk s.cfg strip pos then .next (raise .positionOutOfBounds s)
  else .next (respond (indexData (fbmRead s (stripOf strip) pos.toNat)) s)

end Sys2Proof.Machine
end

