-- ==== Sys2Proof/Machine/Hsv.lean ====
section
/-!
DEFINITION. The HSV conversion: the reference function `HSV2RGB_REF` (spec/40_palette.md R94), and the
conversion of the implementation, the parameter `HSV2RGB` (spec/00_scope.md R13).
-/

namespace Sys2Proof.Machine

/-- `6 * h`, the hue in 1/256 of a sector, `0 .. 1530` (spec/40_palette.md R94). -/
def hsvH6 (h : Nat) : Nat := 6 * h

/-- The sector `i = h6 >> 8`, `0 .. 5`. -/
def hsvSector (h : Nat) : Nat := hsvH6 h / 256

/-- The position inside the sector, `f = h6 & 0xFF`, `0 .. 255`. -/
def hsvF (h : Nat) : Nat := hsvH6 h % 256

/-- `p = (v * (255 - s)) div 255`. -/
def hsvP (s v : Nat) : Nat := v * (255 - s) / 255

/-- `q = (v * (65280 - s * f)) div 65280`. -/
def hsvQ (h s v : Nat) : Nat := v * (65280 - s * hsvF h) / 65280

/-- `t = (v * (65280 - s * (256 - f))) div 65280`. -/
def hsvT (h s v : Nat) : Nat := v * (65280 - s * (256 - hsvF h)) / 65280

/-- A colour from exact channel values, each in `0 .. 255`, given in the order r, g, b. -/
def colorOfRGB (r g b : Nat) : Color := ⟨BitVec.ofNat 8 g, BitVec.ofNat 8 r, BitVec.ofNat 8 b⟩

/-- The reference function on exact integers: the sector table of spec/40_palette.md R94. -/
def hsvReferenceNat (h s v : Nat) : Color :=
  match hsvSector h with
  | 0 => colorOfRGB v (hsvT h s v) (hsvP s v)
  | 1 => colorOfRGB (hsvQ h s v) v (hsvP s v)
  | 2 => colorOfRGB (hsvP s v) v (hsvT h s v)
  | 3 => colorOfRGB (hsvP s v) (hsvQ h s v) v
  | 4 => colorOfRGB (hsvT h s v) (hsvP s v) v
  | _ => colorOfRGB v (hsvP s v) (hsvQ h s v)

/-- `HSV2RGB_REF` (spec/40_palette.md R94), its result in wire order. -/
def hsvReference (h s v : Byte) : Color := hsvReferenceNat h.toNat s.toNat v.toNat

/-- `HSV2RGB` of the implementation (spec/00_scope.md R13), its result in wire order. An `other`
conversion is `achromatic` (spec/40_palette.md R95) and a free value elsewhere. -/
def hsvToColor (c : Config) (h s v : Byte) : Color :=
  match c.hsv with
  | .reference => hsvReference h s v
  | .other n => if s = 0 then ⟨v, v, v⟩ else Config.hsvFree n h s v

end Sys2Proof.Machine
end

