-- ==== Sys2Proof/Machine/Palette.lean ====
section
/-!
DEFINITION. The palette commands `PAL.SETC`, `PAL.SETP`, `PAL.SETHSV`, `PAL.CYCLE`, `PAL.GET`
(spec/40_palette.md R90 to R99).
-/

namespace Sys2Proof.Machine

/-- `set_color`: check the index, then store the entry (the common part of spec/40_palette.md R91, R92, R93). -/
def setColor (idx : Byte) (e : Color) (s : State) : Result :=
  if palIndexOk s.cfg idx then .next (respond 0 (palWrite idx.toNat e s))
  else .next (raise .paletteIndexOutOfBounds s)

/-- `PAL.SETC idx, r, g, b` (spec/40_palette.md R91): operand order r, g, b; stored order g, r, b. -/
def execPalSetc (idx r g b : Byte) (s : State) : Result := setColor idx ⟨g, r, b⟩ s

/-- `PAL.SETP idx, rgb` (spec/40_palette.md R92). -/
def execPalSetp (idx : Byte) (rgb : BitVec 24) (s : State) : Result :=
  setColor idx ⟨packedG rgb, packedR rgb, packedB rgb⟩ s

/-- `PAL.SETHSV idx, h, s, v` (spec/40_palette.md R93). -/
def execPalSethsv (idx h sat v : Byte) (s : State) : Result :=
  setColor idx (hsvToColor s.cfg h sat v) s

/-- The loop `PAL[i] <- PAL[i + 1]` of spec/40_palette.md R96, `n` rounds from index `i` upwards; `d`
gives the value an unlisted entry reads as. -/
def shiftDown (d : Nat → Color) : Nat → Nat → Memory Color → Memory Color
  | 0, _, m => m
  | n + 1, i, m => shiftDown d n (i + 1) (Memory.write (d i) i (Memory.read (d (i + 1)) m (i + 1)) m)

/-- The first `num` entries rotated left by one, `num >= 1` (spec/40_palette.md R96). -/
def rotatePalette (num : Nat) (s : State) : State :=
  let d := paletteInitAt s.cfg
  { s with
    pal := Memory.write (d (num - 1)) (num - 1) (palRead s 0) (shiftDown d (num - 1) 0 s.pal) }

/-- `PAL.CYCLE num` (spec/40_palette.md R96). -/
def execPalCycle (num : BitVec 16) (s : State) : Result :=
  if cycleCountOk s.cfg num then .next (respond 0 (rotatePalette num.toNat s))
  else .next (raise .cycleCountOutOfBounds s)

/-- `PAL.GET idx` (spec/40_palette.md R98). -/
def execPalGet (idx : Byte) (s : State) : Result :=
  if palIndexOk s.cfg idx then .next (respond (colorData (palRead s idx.toNat)) s)
  else .next (raise .paletteIndexOutOfBounds s)

end Sys2Proof.Machine
end

