-- ==== Sys2Proof/Machine/Transform.lean ====
section
/-!
DEFINITION. The coordinate transform and the latch length (spec/42_transform.md R130 to R142), and the
commands that use them: `XF.ROWCOL`, `FBM.SETXY`, `FBM.GETXY`, `XF.LATCHLEN`.
-/

namespace Sys2Proof.Machine

/-- Step 1 of spec/42_transform.md R131: which half of the panel the column is in. -/
def half (x : Nat) : Nat := if 16 ≤ x then 1 else 0

/-- Step 2: the strip index, `0 .. 7`. -/
def stripIndex (x : Nat) : Nat := x % 4 + half x * 4

/-- Step 3: the fold index `m`, `0 .. 3`; ascending with `x` in half 0, descending in half 1 (spec/42_transform.md R132). -/
def foldIndex (x : Nat) : Nat := if half x = 0 then x / 4 else (31 - x) / 4

/-- Step 4: the position along the strip, `0 .. 127`; every other fold reverses the direction. -/
def position (x y : Nat) : Nat :=
  if foldIndex x % 2 = 0 then foldIndex x * 32 + y else foldIndex x * 32 + (31 - y)

/-- `rowcol(x, y) = (s, r)`, for `x < 32` and `y < 32` (spec/42_transform.md R131). -/
def rowcol (x y : Nat) : Nat × Nat := (stripIndex x, position x y)

/-- The inverse `rowcol_inv(s, r) = (x, y)`, for `s < 8` and `r < 128` (spec/42_transform.md R133). -/
def rowcolInv (s r : Nat) : Nat × Nat :=
  let m := r / 32
  let y := if m % 2 = 0 then r % 32 else 31 - r % 32
  let x := if s / 4 = 0 then 4 * m + s % 4 else 16 + 4 * (3 - m) + s % 4
  (x, y)

/-- `latchBytes(n) = ceil(n / 32) = (n + 31) div 32` (spec/42_transform.md R141). -/
def latchBytes (n : Nat) : Nat := (n + 31) / 32

/-- The strip a logical pixel is on. -/
def pixelStrip (x y : Byte) : Fin 8 := Fin.ofNat 8 (rowcol x.toNat y.toNat).1

/-- The position along its strip of a logical pixel. -/
def pixelPos (x y : Byte) : Nat := (rowcol x.toNat y.toNat).2

/-- `XF.ROWCOL x, y` (spec/42_transform.md R136). -/
def execXfRowcol (x y : Byte) (s : State) : Result :=
  if !geometryOk s.cfg then .next (raise .geometryUnsupported s)
  else if !coordinateOk x y then .next (raise .coordinateOutOfBounds s)
  else .next (respond (placeData (rowcol x.toNat y.toNat).1 (rowcol x.toNat y.toNat).2) s)

/-- `FBM.SETXY x, y, val` (spec/42_transform.md R137). -/
def execFbmSetxy (x y val : Byte) (s : State) : Result :=
  if !geometryOk s.cfg then .next (raise .geometryUnsupported s)
  else if !coordinateOk x y then .next (raise .coordinateOutOfBounds s)
  else if !palIndexOk s.cfg val then .next (raise .paletteIndexOutOfBounds s)
  else .next (respond 0 (fbmWrite (pixelStrip x y) (pixelPos x y) val s))

/-- `FBM.GETXY x, y` (spec/42_transform.md R138). -/
def execFbmGetxy (x y : Byte) (s : State) : Result :=
  if !geometryOk s.cfg then .next (raise .geometryUnsupported s)
  else if !coordinateOk x y then .next (raise .coordinateOutOfBounds s)
  else .next (respond (indexData (fbmRead s (pixelStrip x y) (pixelPos x y))) s)

/-- `XF.LATCHLEN n` (spec/42_transform.md R140): no bound, no dependence on the parameters. -/
def execXfLatchlen (n : BitVec 16) (s : State) : Result :=
  .next (respond (BitVec.ofNat 32 (latchBytes n.toNat)) s)

end Sys2Proof.Machine
end

