-- ==== Sys2Proof/Machine/TxSlot.lean ====
section
/-!
DEFINITION. The bit-level transmission primitive `TxSlot` (spec/44_bit_transmit.md R173), built from the
four phases of the per-byte state machine (R174), each of which ends by recording the pins.
-/

namespace Sys2Proof.Machine

/-- What `LED_DATA` carries for bit `j` of the bytes `b`: `b[k][j]` on each active line, 0 on the
others (spec/44_bit_transmit.md R173). -/
def dataBits (b : Lanes Byte) (act : Byte) (j : Nat) : Byte :=
  byteOfLines fun k => lineBit act k && (b.get k).getLsbD j

/-- Phase `SET_DATA` of bit `j` (spec/44_bit_transmit.md R173, R174). -/
def phaseSetData (j : Nat) (s : State) : State :=
  recordPins
    { s with
      bitn := BitVec.ofNat 3 j
      phase := .setData
      ledData := dataBits s.shift s.act j
      ledSel := s.act }

/-- Phase `CLOCK_HIGH`, the rising edge (spec/44_bit_transmit.md R173, R174). -/
def phaseClockHigh (s : State) : State :=
  recordPins { s with phase := .clockHigh, ledClk := true }

/-- Phase `CLOCK_LOW`, the falling edge (spec/44_bit_transmit.md R173, R174). -/
def phaseClockLow (s : State) : State :=
  recordPins { s with phase := .clockLow, ledClk := false }

/-- Phase `IDLE`, the end of the slot (spec/44_bit_transmit.md R173, R174). -/
def phaseIdle (s : State) : State :=
  recordPins { s with phase := .idle, ledSel := 0x00 }

/-- Bits `n - 1` down to 0 of the slot, three phases each, most significant bit first. -/
def txBits : Nat → State → State
  | 0, s => s
  | j + 1, s => txBits j (phaseClockLow (phaseClockHigh (phaseSetData j s)))

/-- `TxSlot(b, act)` with `act` in the register `ACT` (spec/44_bit_transmit.md R173): 25 phase steps. -/
def txSlot (b : Lanes Byte) (s : State) : State :=
  phaseIdle (txBits 8 { s with shift := b })

end Sys2Proof.Machine
end

