-- ==== Sys2Proof/Machine/Render.lean ====
section
/-!
DEFINITION. The protocol driver (spec/43_protocol_driver.md): the colour byte, the slots of a frame, the
two render commands as whole frames, and the render sequencer that sends the same frame phase by
phase (spec/10_state.md R27, R29; spec/70_reset_and_hazards.md R223).
-/

namespace Sys2Proof.Machine

/-- The two rendering modes (spec/43_protocol_driver.md R150). -/
inductive RenderMode where
  | single | multi
deriving DecidableEq, Repr

/-- The length of the frame buffer a mode renders: `N1` or `NM`. -/
def RenderMode.length : RenderMode → Config → Nat
  | .single, c => c.N1
  | .multi, c => c.NM

/-- The constants `L1` and `LM` (spec/43_protocol_driver.md R152). -/
def RenderMode.latchCount (m : RenderMode) (c : Config) : Nat := latchBytes (m.length c)

/-- The lines active in a render: `1 << SINGLE_LINE` or `LINE_MASK` (spec/43_protocol_driver.md R153, R156). -/
def RenderMode.lines : RenderMode → Config → Byte
  | .single, c => 1#8 <<< c.singleLine.val
  | .multi, c => c.lineMask

/-- `colour_byte(c) = c | 0x80` (spec/43_protocol_driver.md R151). -/
def colourByte (c : Byte) : Byte := c ||| 0x80

/-- Component `COMP` of a colour entry: 0 = G, 1 = R, 2 = B (spec/10_state.md R27). -/
def colourComponent (e : Color) (comp : BitVec 2) : Byte :=
  if comp = 0 then e.g else if comp = 1 then e.r else e.b

/-- The palette index a mode reads for line `k` at position `p`: `FB1[p]` or `FBM[k][p]`. -/
def frameIndex (m : RenderMode) (s : State) (k : Fin 8) (p : Nat) : Byte :=
  match m with
  | .single => fb1Read s p
  | .multi => fbmRead s k p

/-- The byte on line `k` of the slot that carries component `comp` of position `p`: the colour byte
on an active line, `0x00` on the others (spec/43_protocol_driver.md R153, R156). -/
def payloadByte (m : RenderMode) (s : State) (p : Nat) (comp : BitVec 2) (k : Fin 8) : Byte :=
  if lineBit s.act k then
    colourByte (colourComponent (palRead s (frameIndex m s k p).toNat) comp)
  else 0x00

/-- The eight bytes `b` of the slot at `(STAGE, POS, COMP)`. -/
def slotBytes (m : RenderMode) (s : State) : Lanes Byte :=
  match s.stage with
  | .payload => Lanes.ofFn (payloadByte m s s.pos.toNat s.comp)
  | _ => Lanes.ofFn fun _ => 0x00

/-- Every palette index read for position `p` on the lines in `act` is `< P` (spec/43_protocol_driver.md R158). -/
def positionReadable (m : RenderMode) (act : Byte) (s : State) (p : Nat) : Bool :=
  (List.finRange 8).all fun k => !lineBit act k || palIndexOk s.cfg (frameIndex m s k p)

/-- Every palette index the frame reads is `< P` (spec/43_protocol_driver.md R158). -/
def frameReadable (m : RenderMode) (s : State) : Bool :=
  (List.range (m.length s.cfg)).all (positionReadable m (m.lines s.cfg) s)

/-- One slot of a frame, by its place in the loops of spec/43_protocol_driver.md R153, R156. -/
inductive Slot where
  | colour (pos : BitVec 16) (comp : BitVec 2)
  | latch (left : BitVec 12)
deriving DecidableEq, Repr

/-- The three colour slots of one position, in the order G, R, B. -/
def positionSlots (p : Nat) : List Slot :=
  [.colour (BitVec.ofNat 16 p) 0, .colour (BitVec.ofNat 16 p) 1, .colour (BitVec.ofNat 16 p) 2]

/-- The latch slots, `LCNT` from `n` down to 1. -/
def latchSlots : Nat → List Slot
  | 0 => []
  | n + 1 => .latch (BitVec.ofNat 12 (n + 1)) :: latchSlots n

/-- The slots of one frame in the order they are sent (spec/43_protocol_driver.md R153, R156). -/
def frameSlots (m : RenderMode) (c : Config) : List Slot :=
  (List.range (m.length c)).flatMap positionSlots ++ latchSlots (m.latchCount c)

/-- The sequencer registers at the start of a slot. -/
def seekSlot (sl : Slot) (s : State) : State :=
  match sl with
  | .colour p c => { s with stage := .payload, pos := p, comp := c }
  | .latch n => { s with stage := .latch, lcnt := n }

/-- One slot sent. -/
def sendSlot (m : RenderMode) (s : State) (sl : Slot) : State :=
  txSlot (slotBytes m (seekSlot sl s)) (seekSlot sl s)

/-- The start of a render: `ACT`, `STAGE <- PAYLOAD`, position 0, component G. -/
def renderStart (m : RenderMode) (s : State) : State :=
  { s with act := m.lines s.cfg, stage := .payload, pos := 0, comp := 0 }

/-- The end of a render: no latch byte left, `STAGE <- NONE`, `respond(0)`. -/
def renderFinish (s : State) : State :=
  respond 0 { s with stage := .none, lcnt := 0 }

/-- A whole frame: its slots one after the other through `TxSlot`. -/
def sendFrame (m : RenderMode) (s : State) : State :=
  renderFinish ((frameSlots m s.cfg).foldl (sendSlot m) (renderStart m s))

/-- A render command as one transition (spec/10_state.md R35). An index out of the palette in the
frame is a fault of the model, never a value (spec/43_protocol_driver.md R158). -/
def renderFrame (m : RenderMode) (s : State) : Result :=
  if frameReadable m s then .next (sendFrame m s) else .fault .paletteIndexAtRender

/-- `RENDER.S` (spec/43_protocol_driver.md R153). -/
def execRenderS (s : State) : Result := renderFrame .single s

/-- `RENDER.M` (spec/43_protocol_driver.md R156). -/
def execRenderM (s : State) : Result := renderFrame .multi s

/-- The sequencer registers after the last phase of a slot: the next component, the next position,
the latch run, one latch byte fewer (spec/43_protocol_driver.md R153, R156). DESIGN CHOICE: the rules
give this order, not the phase step in which the registers move (log entry 13). -/
def advanceSlot (m : RenderMode) (s : State) : State :=
  match s.stage with
  | .payload =>
    if s.comp.toNat < 2 then { s with comp := s.comp + 1 }
    else if s.pos.toNat + 1 < m.length s.cfg then { s with pos := s.pos + 1, comp := 0 }
    else { s with stage := .latch, lcnt := BitVec.ofNat 12 (m.latchCount s.cfg) }
  | .latch => { s with lcnt := s.lcnt - 1 }
  | .none => s

/-- The registers `POS` and `COMP` are in the ranges of spec/10_state.md R27. -/
def placeOk (m : RenderMode) (s : State) : Bool :=
  decide (s.pos.toNat < m.length s.cfg ∧ s.comp.toNat < 3)

/-- The first phase of a slot: load `SHIFT` and set the data of bit 7 (spec/44_bit_transmit.md R173). -/
def beginSlot (m : RenderMode) (s : State) : State :=
  phaseSetData 7 { s with shift := slotBytes m s }

/-- One phase step of a render in progress (spec/44_bit_transmit.md R174: the transitions of the
per-byte state machine); in `IDLE` with no latch byte left, the completion of the command. DESIGN
CHOICE: `STAGE`, `POS`, `COMP` and `LCNT` move on in the `IDLE` step that closes a slot, not in the
first `SET_DATA` of the next one (log entry 13). -/
def renderPhase (m : RenderMode) (s : State) : Result :=
  match s.phase with
  | .idle =>
    match s.stage with
    | .none => .fault .sequencerState
    | .payload =>
      if !placeOk m s then .fault .sequencerState
      else if !positionReadable m s.act s s.pos.toNat then .fault .paletteIndexAtRender
      else .next (beginSlot m s)
    | .latch => if s.lcnt = 0 then .next (renderFinish s) else .next (beginSlot m s)
  | .setData => .next (phaseClockHigh s)
  | .clockHigh => .next (phaseClockLow s)
  | .clockLow =>
    if s.bitn = 0 then .next (advanceSlot m (phaseIdle s))
    else .next (phaseSetData (s.bitn.toNat - 1) s)

end Sys2Proof.Machine
end

