-- ==== Sys2Proof/Machine/Dispatch.lean ====
section
/-!
DEFINITION. The meaning of each command: one arm for each constructor of `Instr`.
-/

namespace Sys2Proof.Machine

def exec (i : Instr) (s : State) : Host.Outcome State Fault Refusal :=
  match i with
  -- palette commands (spec/40_palette.md)
  | .palSetc idx r g b => Sys2Proof.Machine.execPalSetc idx r g b s
  | .palSetp idx rgb => Sys2Proof.Machine.execPalSetp idx rgb s
  | .palSethsv idx h sat v => Sys2Proof.Machine.execPalSethsv idx h sat v s
  | .palCycle num => Sys2Proof.Machine.execPalCycle num s
  | .palGet idx => Sys2Proof.Machine.execPalGet idx s
  -- frame-buffer commands (spec/41_framebuffer.md)
  | .fb1Fill val => Sys2Proof.Machine.execFb1Fill val s
  | .fb1Set pos val => Sys2Proof.Machine.execFb1Set pos val s
  | .fbmFill val => Sys2Proof.Machine.execFbmFill val s
  | .fbmSet strip pos val => Sys2Proof.Machine.execFbmSet strip pos val s
  | .fbmGet strip pos => Sys2Proof.Machine.execFbmGet strip pos s
  -- transform commands (spec/42_transform.md)
  | .fbmSetxy x y val => Sys2Proof.Machine.execFbmSetxy x y val s
  | .fbmGetxy x y => Sys2Proof.Machine.execFbmGetxy x y s
  | .xfRowcol x y => Sys2Proof.Machine.execXfRowcol x y s
  | .xfLatchlen n => Sys2Proof.Machine.execXfLatchlen n s
  -- render commands (spec/43_protocol_driver.md)
  | .renderS => Sys2Proof.Machine.execRenderS s
  | .renderM => Sys2Proof.Machine.execRenderM s

end Sys2Proof.Machine
end

