-- ==== Sys2Proof/Machine/Sequencer.lean ====
section
/-!
DEFINITION. What the block does in one step: the command taken to its completion (spec/10_state.md R35),
or one block step of a command in progress, and the precedence of reset (spec/70_reset_and_hazards.md
R220, R221). Step.lean only calls it.
-/

namespace Sys2Proof.Machine

/-- The accepted command, decoded and executed; a word that is no command raises `IllegalCommand`
(spec/30_encoding.md R76, spec/60_exceptions.md R194). -/
def runCommand (s : State) : Result :=
  match fetch s with
  | .error _ => .next (raise .illegalCommand s)
  | .ok i => exec i s

/-- The rendering mode of a render command. -/
def renderMode : Instr → Option RenderMode
  | .renderS => some .single
  | .renderM => some .multi
  | _ => none

/-- The rendering mode of the command in `CMDR`, if it is a render. -/
def activeMode (s : State) : Option RenderMode :=
  match fetch s with
  | .error _ => none
  | .ok i => renderMode i

/-- One block step of the command in progress (`BUSY = 1`): a render is started and then advanced
phase by phase; every other command, having no step that can be told apart (spec/20_memory.md R54),
is executed at once. -/
def blockStep (s : State) : Result :=
  match s.stage, activeMode s with
  | .none, none => runCommand s
  | .none, some m => .next (renderStart m s)
  | _, none => .fault .sequencerState
  | _, some m => renderPhase m s

/-- The block with the values `e` on its input ports: reset before everything; a busy block takes its
next block step and accepts nothing; a ready block accepts a command that is presented. -/
def reactTo (e : HostInput) (s : State) : Result :=
  if e.rst then .next (resetBlock s)
  else if s.busy then blockStep s
  else if e.cmdValid && cmdReady s e.rst then
    if e.whole then runCommand (accept e.cmdOp e.cmdArg s)
    else .next (accept e.cmdOp e.cmdArg s)
  else .next s

/-- The host's input for this step is taken and the block reacts to it. -/
def machineStep (s : State) : Result := reactTo (hostInput s) (consumeInput s)

/-- The word numbered as spec/opcode_table.json numbers it, presented by the host in the next step and
taken to its completion; a command in progress is no longer in the way. -/
def presentWord (s : State) (nbits w : Nat) : State :=
  let word := BitVec.ofNat 40 (w % 2 ^ nbits)
  { s with
    busy := false
    host := ⟨false, true, word.extractLsb' 32 8, word.extractLsb' 0 32, true⟩ :: s.host }

end Sys2Proof.Machine
end

