-- ==== Sys2Proof/Machine/Step.lean ====
section
/-!
DEFINITION. The step of the machine.
-/

namespace Sys2Proof.Machine

/-- One step: the host's input for this step is taken and the block reacts to it. -/
def step (s : State) : Host.Outcome State Fault Refusal := machineStep s

/-- `s` with the command word `w` stored where the next step takes its command from: first in the
host's inputs, with the block ready. -/
def State.withFetchWord (s : State) (nbits w : Nat) : State := presentWord s nbits w

end Sys2Proof.Machine
end

