-- ==== Sys2Proof/Machine/Wire.lean ====
section
/-!
DEFINITION. What is observed on the wire (spec/44_bit_transmit.md section 3): the trace in order, the
rising edges, and the byte stream of each line.
-/

namespace Sys2Proof.Machine

/-- `WIRE` in the order the pin states were recorded (spec/44_bit_transmit.md R177). -/
def wireTrace (s : State) : List Pins := s.wire.reverse

/-- `EDGES`: the pairs `(LED_DATA, LED_SEL)` at the `CLOCK_HIGH` steps, which are the entries with
`LED_CLK = 1` (spec/44_bit_transmit.md R178). -/
def edges (w : List Pins) : List (Byte × Byte) :=
  (w.filter Pins.clk).map fun p => (p.data, p.sel)

/-- The bits line `k` receives: `LED_DATA[k]` at the edges with `LED_SEL[k] = 1` (spec/44_bit_transmit.md R179). -/
def lineBits (k : Fin 8) (e : List (Byte × Byte)) : List Bool :=
  (e.filter fun x => lineBit x.2 k).map fun x => lineBit x.1 k

/-- Bits grouped eight at a time, first bit most significant; a group not yet full is no byte. -/
def groupBytes : List Bool → List Byte
  | b7 :: b6 :: b5 :: b4 :: b3 :: b2 :: b1 :: b0 :: rest =>
    BitVec.ofBoolListLE [b0, b1, b2, b3, b4, b5, b6, b7] :: groupBytes rest
  | _ => []

/-- `BYTES[k]` of a trace (spec/44_bit_transmit.md R179). DESIGN CHOICE: on a trace that runs across a reset
inside a slot, the bits of the slot cut short are carried into the next byte (log entry 14). -/
def lineBytes (k : Fin 8) (w : List Pins) : List Byte := groupBytes (lineBits k (edges w))

/-- The three entries one bit adds to `WIRE`: `SET_DATA`, `CLOCK_HIGH`, `CLOCK_LOW` (spec/44_bit_transmit.md R173). -/
def bitWire (data sel : Byte) : List Pins := [⟨false, data, sel⟩, ⟨true, data, sel⟩, ⟨false, data, sel⟩]

/-- The 25 entries one completed `TxSlot(b, act)` adds to `WIRE`, oldest first (spec/44_bit_transmit.md R173, R181). -/
def slotWire (b : Lanes Byte) (act : Byte) : List Pins :=
  [7, 6, 5, 4, 3, 2, 1, 0].flatMap (fun j => bitWire (dataBits b act j) act) ++
    [⟨false, dataBits b act 0, 0x00⟩]

end Sys2Proof.Machine
end

