-- ==== Sys2Proof/Safety.lean ====
section
/-!
DEFINITION. The terms claims are stated in: the invariant of the machine, how a command ends, what a
command leaves unchanged, the fault each command reports, and the columns `match` and `mask` of the
opcode table.
-/

namespace Sys2Proof.Machine

/-- The three memories are in canonical form, with valid indices only (spec/20_memory.md R50). -/
structure MemoriesOk (s : State) : Prop where
  pal : Memory.wf (paletteInitAt s.cfg) s.cfg.P s.pal
  fb1 : Memory.wf (fun _ => (0 : Byte)) s.cfg.N1 s.fb1
  fbm : ∀ k, Memory.wf (fun _ => (0 : Byte)) s.cfg.NM (s.fbm.get k)

/-- `INV_IDX`: every element of `FB1` and of `FBM` is `< P` (spec/10_state.md R26). -/
structure IndicesOk (s : State) : Prop where
  fb1 : ∀ p, p < s.cfg.N1 → (fb1Read s p).toNat < s.cfg.P
  fbm : ∀ k p, p < s.cfg.NM → (fbmRead s k p).toNat < s.cfg.P

/-- The status and response registers (spec/10_state.md R30, R32): `FAULT[7:6]` read as 0, the response
code is 0 or the code of a cause whose sticky bit is set, a busy block has no valid response, and a
ready block without one has given none since reset. -/
structure StatusOk (s : State) : Prop where
  reserved : s.fault.extractLsb' 6 2 = 0
  code : s.rspCode = 0 ∨ ∃ c : FaultCause, s.rspCode = c.code ∧ s.fault.getLsbD c.bit = true
  busy : s.busy = true → s.rspValid = false
  fresh : s.busy = false → s.rspValid = false → s.rspCode = 0 ∧ s.rspData = 0

/-- The pins and the phase of the byte state machine agree (spec/44_bit_transmit.md R174), and the last
entry of the wire trace is the present pin state. -/
structure PinsOk (s : State) : Prop where
  clk : s.ledClk = decide (s.phase = .clockHigh)
  sel : s.ledSel = if s.phase = .idle then 0 else s.act
  data : s.phase ≠ .idle → s.ledData = dataBits s.shift s.act s.bitn.toNat
  recorded : s.wire.head? = some (pins s)

/-- A render in progress in mode `m` (spec/10_state.md R27, spec/43_protocol_driver.md R153, R156): its active
lines, the place it has reached, and, inside a slot, the bytes being sent. The place is that of the slot
being sent, and in `IDLE` that of the next one (DESIGN CHOICE, log entry 13). -/
structure RenderOk (m : RenderMode) (s : State) : Prop where
  mode : activeMode s = some m
  lines : s.act = m.lines s.cfg
  place : s.stage = .payload → s.pos.toNat < m.length s.cfg ∧ s.comp.toNat < 3
  left : s.stage = .latch → s.lcnt.toNat ≤ m.latchCount s.cfg
  bytes : s.phase ≠ .idle → s.shift = slotBytes m s
  sending : s.stage = .latch → s.phase ≠ .idle → 1 ≤ s.lcnt.toNat
  dark : s.stage = .latch → s.phase = .idle → s.lcnt.toNat < m.latchCount s.cfg → s.ledData = 0

/-- The sequencer: a ready block has `STAGE = NONE`; with `STAGE = NONE` the transmitter is in `IDLE`
with `LED_DATA = 0x00` (spec/10_state.md R27, spec/44_bit_transmit.md R176); otherwise a render is in
progress. -/
structure SequencerOk (s : State) : Prop where
  ready : s.busy = false → s.stage = .none
  none : s.stage = .none → s.phase = .idle ∧ s.ledData = 0
  active : s.stage ≠ .none → ∃ m, RenderOk m s

/-- The invariant of the machine. -/
structure BlockInv (s : State) : Prop where
  memories : MemoriesOk s
  indices : IndicesOk s
  status : StatusOk s
  pins : PinsOk s
  sequencer : SequencerOk s

/-- The command ended with `respond(d)` (spec/60_exceptions.md R192). -/
structure Completed (d : BitVec 32) (s t : State) : Prop where
  code : t.rspCode = 0x00
  data : t.rspData = d
  valid : t.rspValid = true
  busy : t.busy = false
  fault : t.fault = s.fault
  responses : t.responses = ⟨0x00, d⟩ :: s.responses

/-- The command ended with `raise c` (spec/60_exceptions.md R193): the response, and the sticky bit of `c`
set with the other bits as before. -/
structure Faulted (c : FaultCause) (s t : State) : Prop where
  code : t.rspCode = c.code
  data : t.rspData = 0x00000000
  valid : t.rspValid = true
  busy : t.busy = false
  fault : ∀ j, t.fault.getLsbD j = (s.fault.getLsbD j || decide (j = c.bit))
  responses : t.responses = ⟨c.code, 0x00000000⟩ :: s.responses

/-- `PAL` reads as before, at every index. -/
def SamePal (s t : State) : Prop := ∀ i, palRead t i = palRead s i

/-- `FB1` reads as before, at every position. -/
def SameFb1 (s t : State) : Prop := ∀ p, fb1Read t p = fb1Read s p

/-- `FBM` reads as before, at every strip and position. -/
def SameFbm (s t : State) : Prop := ∀ k p, fbmRead t k p = fbmRead s k p

/-- All three memories read as before. -/
structure SameMemories (s t : State) : Prop where
  pal : SamePal s t
  fb1 : SameFb1 s t
  fbm : SameFbm s t

/-- The sequencer's working registers are as before (spec/10_state.md R27). -/
structure SameSequencer (s t : State) : Prop where
  stage : t.stage = s.stage
  pos : t.pos = s.pos
  comp : t.comp = s.comp
  lcnt : t.lcnt = s.lcnt
  act : t.act = s.act
  shift : t.shift = s.shift
  bitn : t.bitn = s.bitn
  phase : t.phase = s.phase

/-- The pins have not moved and `WIRE` has gained nothing. -/
structure SamePins (s t : State) : Prop where
  clk : t.ledClk = s.ledClk
  data : t.ledData = s.ledData
  sel : t.ledSel = s.ledSel
  wire : t.wire = s.wire

/-- The parameters, the command register and the host's coming inputs are as before. -/
structure SameSetting (s t : State) : Prop where
  cfg : t.cfg = s.cfg
  cmdrOp : t.cmdrOp = s.cmdrOp
  cmdrArg : t.cmdrArg = s.cmdrArg
  host : t.host = s.host

/-- All but the memories, the status and the responses is as before: the frame of every command that
sends nothing. -/
structure SameOutside (s t : State) : Prop where
  setting : SameSetting s t
  sequencer : SameSequencer s t
  pins : SamePins s t

/-- A command that changes nothing but its response answers `d`. -/
structure Answered (d : BitVec 32) (s t : State) : Prop where
  completed : Completed d s t
  memories : SameMemories s t
  outside : SameOutside s t

/-- A command that faults with cause `c` and has no other effect (spec/60_exceptions.md R193). -/
structure FaultedOnly (c : FaultCause) (s t : State) : Prop where
  faulted : Faulted c s t
  memories : SameMemories s t
  outside : SameOutside s t

/-- The fault a command reports, the first that applies in the order of spec/60_exceptions.md R201 (after
`IllegalCommand`, which is decided before there is a command): geometry, the addressing operands, the
value operand. -/
def expectedFault (c : Config) : Instr → Option FaultCause
  | .palSetc idx _ _ _ | .palSetp idx _ | .palSethsv idx _ _ _ | .palGet idx =>
    if c.P ≤ idx.toNat then some .paletteIndexOutOfBounds else none
  | .palCycle num =>
    if num.toNat < 1 ∨ c.P < num.toNat then some .cycleCountOutOfBounds else none
  | .fb1Fill val | .fbmFill val =>
    if c.P ≤ val.toNat then some .paletteIndexOutOfBounds else none
  | .fb1Set pos val =>
    if c.N1 ≤ pos.toNat then some .positionOutOfBounds
    else if c.P ≤ val.toNat then some .paletteIndexOutOfBounds else none
  | .fbmSet strip pos val =>
    if 8 ≤ strip.toNat ∨ c.NM ≤ pos.toNat then some .positionOutOfBounds
    else if c.P ≤ val.toNat then some .paletteIndexOutOfBounds else none
  | .fbmGet strip pos =>
    if 8 ≤ strip.toNat ∨ c.NM ≤ pos.toNat then some .positionOutOfBounds else none
  | .fbmSetxy x y val =>
    if c.NM ≠ 128 then some .geometryUnsupported
    else if 32 ≤ x.toNat ∨ 32 ≤ y.toNat then some .coordinateOutOfBounds
    else if c.P ≤ val.toNat then some .paletteIndexOutOfBounds else none
  | .fbmGetxy x y | .xfRowcol x y =>
    if c.NM ≠ 128 then some .geometryUnsupported
    else if 32 ≤ x.toNat ∨ 32 ≤ y.toNat then some .coordinateOutOfBounds else none
  | .xfLatchlen _ | .renderS | .renderM => none

/-- The column `match` of spec/30_encoding.md R75. -/
def tableMatch : Mnemonic → CommandWord
  | .palSetc => 0x1000000000
  | .palSetp => 0x1100000000
  | .palSethsv => 0x1200000000
  | .palCycle => 0x1300000000
  | .palGet => 0x1400000000
  | .fb1Fill => 0x2000000000
  | .fb1Set => 0x2100000000
  | .fbmFill => 0x3000000000
  | .fbmSet => 0x3100000000
  | .fbmGet => 0x3200000000
  | .fbmSetxy => 0x3300000000
  | .fbmGetxy => 0x3400000000
  | .xfRowcol => 0x4000000000
  | .xfLatchlen => 0x4100000000
  | .renderS => 0x5000000000
  | .renderM => 0x5100000000

/-- The column `mask` of spec/30_encoding.md R75. -/
def tableMask : Mnemonic → CommandWord
  | .palSetc => 0xFF00000000
  | .palSetp => 0xFF00000000
  | .palSethsv => 0xFF00000000
  | .palCycle => 0xFFFFFF0000
  | .palGet => 0xFF00FFFFFF
  | .fb1Fill => 0xFFFFFFFF00
  | .fb1Set => 0xFFFF000000
  | .fbmFill => 0xFFFFFFFF00
  | .fbmSet => 0xFF00000000
  | .fbmGet => 0xFF000000FF
  | .fbmSetxy => 0xFF0000FF00
  | .fbmGetxy => 0xFF0000FFFF
  | .xfRowcol => 0xFF0000FFFF
  | .xfLatchlen => 0xFFFFFF0000
  | .renderS => 0xFFFFFFFFFF
  | .renderM => 0xFFFFFFFFFF

/-- The bytes a frame carries on one line, in the order sent: green, red, blue of each position from 0
up, each a colour byte, then the latch run (spec/43_protocol_driver.md R153, R156; spec/20_memory.md R59). `e`
gives the palette entry of a position, `n` the number of positions. -/
def frameBytes (e : Nat → Color) (n : Nat) : List Byte :=
  (List.range n).flatMap (fun p => [colourByte (e p).g, colourByte (e p).r, colourByte (e p).b]) ++
    List.replicate (latchBytes n) 0x00

/-- The pin states a whole frame adds to `WIRE`, oldest first. -/
def frameWire (m : RenderMode) (s : State) : List Pins :=
  (frameSlots m s.cfg).flatMap fun sl =>
    slotWire (slotBytes m (seekSlot sl (renderStart m s))) (m.lines s.cfg)

/-- A whole frame of `n` positions on the lines in `act`, pin state by pin state: for each position its
green, then its red, then its blue component, on all active lines at once and `0x00` on the others; then
the latch run (spec/43_protocol_driver.md R153, R156). `e k p` is the entry shown at position `p` of line `k`. -/
def frameOnWire (act : Byte) (n : Nat) (e : Fin 8 → Nat → Color) : List Pins :=
  ((List.range n).flatMap (fun p =>
      [Color.g, Color.r, Color.b].map fun (component : Color → Byte) =>
        Lanes.ofFn fun k => if lineBit act k then colourByte (component (e k p)) else 0x00) ++
    List.replicate (latchBytes n) (Lanes.ofFn fun _ => 0x00)).flatMap fun b => slotWire b act

/-- Consecutive pin states never change the clock together with data or select, and data and select
never change where the clock is high (spec/44_bit_transmit.md R175). -/
def StablePins (w : List Pins) : Prop :=
  w.IsChain fun a b => (a.clk = true ∨ b.clk = true) → a.data = b.data ∧ a.sel = b.sel

/-- `k` steps of the machine, stopping at the first fault or refusal. -/
abbrev run (k : Nat) (s : State) : Result := Sys2Proof.core.run k s

/-- A command executed `n` times, one after the other. -/
def execTimes : Nat → Instr → State → Result
  | 0, _, s => .next s
  | n + 1, i, s =>
    match exec i s with
    | .next t => execTimes n i t
    | .fault f => .fault f
    | .refused r => .refused r

/-- The host presents the word `{op, arg}`; `whole` says how far the step takes it (log entry 4). -/
def offer (whole : Bool) (op : Byte) (arg : BitVec 32) : HostInput := ⟨false, true, op, arg, whole⟩

/-- The state in which a command `{op, arg}` begins to execute: the acceptance of spec/10_state.md R35,
with `rest` the inputs the host will drive next. -/
def accepted (op : Byte) (arg : BitVec 32) (rest : List HostInput) (s : State) : State :=
  { s with cmdrOp := op, cmdrArg := arg, busy := true, rspValid := false, host := rest }

/-- The host asserts `RST` in this step. -/
def resetInput : HostInput := ⟨true, false, 0, 0, true⟩

/-- The steps a command takes phase by phase: acceptance and execution, or, for a render, acceptance,
start, 25 phase steps a slot, and completion (spec/70_reset_and_hazards.md R233). -/
def stepsOf (c : Config) (r : Except Reject Instr) : Nat :=
  match r with
  | .ok .renderS => 3 + 25 * (3 * c.N1 + latchBytes c.N1)
  | .ok .renderM => 3 + 25 * (3 * c.NM + latchBytes c.NM)
  | _ => 2

end Sys2Proof.Machine
end

