-- ==== Sys2Proof/Certificates/Slice0/Obligations.lean ====
section
/-!
DEFINITION. The statements for the provers. Each says which rule of spec/ it formalises.
-/

open Sys2Proof Sys2Proof.Machine

/-! ## Encoding -/

/-- No bit of an encoding is dropped: decoding the word of a command gives the command back, with every
operand at every value (spec/30_encoding.md R71, R75, R76). -/
def Obligations.DecodeOfEncodeIsTheCommand : Prop :=
  ∀ i : Instr, decode (encode i) = .ok i

/-- Each word that is a command is the encoding of that command alone (spec/30_encoding.md R71, R75). -/
def Obligations.EncodeOfDecodeIsTheWord : Prop :=
  ∀ (w : CommandWord) (i : Instr), decode w = .ok i → encode i = w

/-- R75: "a word `w` is this command exactly when `w & mask = match`", for all sixteen rows. -/
def Obligations.DecoderFollowsMatchAndMask : Prop :=
  ∀ (m : Mnemonic) (w : CommandWord),
    (∃ i, decode w = .ok i ∧ i.mnemonic = m) ↔ w &&& tableMask m = tableMatch m

/-- R71, R72: every operand of a decoded command is the unsigned field of the word at the position its
format gives, at the field's full width. -/
def Obligations.OperandsAreTheFieldsOfTheWord : Prop :=
  ∀ (w : CommandWord) (i : Instr), decode w = .ok i →
    i.operands = i.mnemonic.fields.map fun f => w.toNat / 2 ^ f.2 % 2 ^ f.1

/-- The example encodings of spec/30_encoding.md section 7. -/
def Obligations.ExampleWordsDecode : Prop :=
  decode 0x1001102030 = .ok (.palSetc 1 0x10 0x20 0x30) ∧
  decode 0x11027F0001 = .ok (.palSetp 2 0x7F0001) ∧
  decode 0x12036480C8 = .ok (.palSethsv 3 100 128 200) ∧
  decode 0x1300000003 = .ok (.palCycle 3) ∧
  decode 0x14FF000000 = .ok (.palGet 255) ∧
  decode 0x2000000001 = .ok (.fb1Fill 1) ∧
  decode 0x2100007F05 = .ok (.fb1Set 127 5) ∧
  decode 0x3000000000 = .ok (.fbmFill 0) ∧
  decode 0x3107007F09 = .ok (.fbmSet 7 127 9) ∧
  decode 0x3207007F00 = .ok (.fbmGet 7 127) ∧
  decode 0x33101F0001 = .ok (.fbmSetxy 16 31 1) ∧
  decode 0x341F000000 = .ok (.fbmGetxy 31 0) ∧
  decode 0x4005000000 = .ok (.xfRowcol 5 0) ∧
  decode 0x4100000021 = .ok (.xfLatchlen 33) ∧
  decode 0x5000000000 = .ok .renderS ∧
  decode 0x5100000000 = .ok .renderM ∧
  decode 0x1401000001 = .error .reservedBit ∧
  decode 0x0000000000 = .error .unassignedOpcode

/-- R80: the assembler refuses exactly the lines with a wrong number of operands or an operand that
does not fit its field, and gives every other line the word of the command with those operands. -/
def Obligations.AssemblerRefusesOnlyWhatDoesNotFit : Prop :=
  ∀ l : SourceLine,
    (assemble l = none ↔
      ¬ (l.operands.length = l.mnemonic.fields.length ∧
        ∀ x ∈ l.operands.zip l.mnemonic.fields, x.1 < 2 ^ x.2.1)) ∧
    (∀ w, assemble l = some w → ∃ i : Instr, i.source = l ∧ encode i = w ∧ decode w = .ok i)

/-! ## Reset and the command handshake -/

/-- R36: the value of every piece of state after reset, for every choice of the parameters; and the
machine's reset state is that of the default parameters. -/
def Obligations.ResetStateHoldsTheTabledValues : Prop :=
  (∀ (c : Config) (s : State), s = State.resetOf c →
    (∀ i, palRead s i = paletteInitAt c i) ∧ (∀ p, fb1Read s p = 0) ∧ (∀ k p, fbmRead s k p = 0) ∧
    s.fault = 0x00 ∧ s.busy = false ∧ s.rspValid = false ∧ s.rspCode = 0x00 ∧ s.rspData = 0x00000000 ∧
    s.cmdrOp = 0 ∧ s.cmdrArg = 0 ∧ s.stage = .none ∧ s.phase = .idle ∧
    s.pos = 0 ∧ s.comp = 0 ∧ s.lcnt = 0 ∧ s.act = 0 ∧ s.bitn = 0 ∧ (∀ k, s.shift.get k = 0) ∧
    s.ledClk = false ∧ s.ledData = 0x00 ∧ s.ledSel = 0x00) ∧
  State.reset = State.resetOf Config.standard ∧
  (∀ i, paletteInitAt Config.standard i = ⟨0, 0, 0⟩)

/-- R221: reset, from any state, also inside a command, gives every piece of state its reset value,
appends `(0, 0x00, 0x00)` to `WIRE` and nothing else, and gives no response. (The parameters, the host's
coming inputs and the two records are no state of the block.) -/
def Obligations.ResetGivesTheResetState : Prop :=
  ∀ s : State, (hostInput s).rst = true →
    ∃ t, step s = .next t ∧
      t = { State.resetOf s.cfg with
            host := t.host
            wire := t.wire
            responses := t.responses } ∧
      wireTrace t = wireTrace s ++ [⟨false, 0x00, 0x00⟩] ∧
      t.responses = s.responses

/-- R222: nothing survives a reset: two blocks with the same parameters and any two states are, after a
reset, in the same state, the model's two records and the host's coming inputs apart. -/
def Obligations.ResetForgetsThePast : Prop :=
  ∀ s s' t t' : State, s.cfg = s'.cfg → (hostInput s).rst = true → (hostInput s').rst = true →
    step s = .next t → step s' = .next t' →
    { t with host := [], wire := [], responses := [] } = { t' with host := [], wire := [], responses := [] }

/-- A step runs the decoded command (R35, R76): where the host presents a word that decodes to `i` to a
ready block, the step is the acceptance of the word and then `exec i`. -/
def Obligations.StepRunsTheDecodedCommand : Prop :=
  ∀ (s : State) (op : Byte) (arg : BitVec 32) (rest : List HostInput) (i : Instr),
    s.busy = false → s.host = offer true op arg :: rest → decode (op ++ arg) = .ok i →
    step s = exec i (accepted op arg rest s)

/-- R35: where the model takes the acceptance as a step of its own, that step writes `CMDR`, `BUSY` and
`RSP_VALID` and nothing else, whatever the word; and the next step, if it is no reset and the word
decodes to a command that is no render, is `exec` of it. -/
def Obligations.AcceptanceWritesTheCommandRegister : Prop :=
  ∀ (s : State) (op : Byte) (arg : BitVec 32) (rest : List HostInput),
    s.busy = false → s.host = offer false op arg :: rest →
    step s = .next (accepted op arg rest s) ∧
    (∀ i, decode (op ++ arg) = .ok i → i ≠ .renderS → i ≠ .renderM → s.stage = .none →
      (rest.headD HostInput.idle).rst = false →
      step (accepted op arg rest s) = exec i (accepted op arg rest.tail s))

/-- R35: "While `BUSY = 1` no command is accepted": what a busy block does in a step without reset does
not depend on the command port. -/
def Obligations.BusyBlockIgnoresTheCommandPort : Prop :=
  ∀ (s : State) (e e' : HostInput) (rest : List HostInput),
    s.busy = true → e.rst = false → e'.rst = false →
    step { s with host := e :: rest } = step { s with host := e' :: rest }

/-- R74, R77, R194: a word that is none of the sixteen commands, by its opcode or by a reserved bit,
raises `IllegalCommand` and has no other effect, whether it is taken whole or accepted first. That a word
taken whole raises it in the step of its acceptance, and a word accepted before in exactly the next
step, is the model's choice (log entry 4). -/
def Obligations.IllegalWordsRaiseIllegalCommand : Prop :=
  ∀ (s : State) (op : Byte) (arg : BitVec 32) (rest : List HostInput),
    (∀ m : Mnemonic, (op ++ arg) &&& tableMask m ≠ tableMatch m) →
    (s.busy = false → s.host = offer true op arg :: rest →
      ∃ t, step s = .next t ∧ FaultedOnly .illegalCommand (accepted op arg rest s) t) ∧
    (s.busy = true → s.stage = .none → s.cmdrOp = op → s.cmdrArg = arg → (hostInput s).rst = false →
      ∃ t, step s = .next t ∧ FaultedOnly .illegalCommand { s with host := s.host.tail } t)

/-- A ready block to which no command is presented waits (R35). -/
def Obligations.ReadyBlockWaitsForACommand : Prop :=
  ∀ s : State, s.busy = false → (hostInput s).rst = false → (hostInput s).cmdValid = false →
    step s = .next { s with host := s.host.tail }

/-- R35: "Every accepted command produces exactly one response": when a command's meaning answers a next
state, that state is ready again and exactly one response has been given, the one the response
registers hold. -/
def Obligations.EveryCommandAnswersOnce : Prop :=
  ∀ (i : Instr) (s t : State), exec i s = .next t →
    t.busy = false ∧ t.rspValid = true ∧ t.responses = ⟨t.rspCode, t.rspData⟩ :: s.responses

/-! ## Faults -/

/-- R191, R193, R195 to R199, R201: a command whose operands break a precondition reports the first fault
in the fixed order and changes nothing but the sticky bit and the response; every other command that
completes reports none and leaves `FAULT` unchanged. -/
def Obligations.CommandReportsItsFirstFaultOnly : Prop :=
  (∀ (i : Instr) (s : State) (c : FaultCause), expectedFault s.cfg i = some c →
    ∃ t, exec i s = .next t ∧ FaultedOnly c s t) ∧
  (∀ (i : Instr) (s t : State), expectedFault s.cfg i = none → exec i s = .next t →
    ∃ d, Completed d s t)

/-- R202: no step but a reset clears a bit of `FAULT`. -/
def Obligations.FaultBitsAreSticky : Prop :=
  ∀ (s t : State) (j : Nat), (hostInput s).rst = false → step s = .next t →
    s.fault.getLsbD j = true → t.fault.getLsbD j = true

/-- R202: "`FAULT != 0` has no effect on the execution of later commands". -/
def Obligations.FaultRegisterHasNoInfluence : Prop :=
  ∀ (i : Instr) (s t : State) (f : Byte), exec i s = .next t →
    ∃ t', exec i { s with fault := f } = .next t' ∧ { t' with fault := 0 } = { t with fault := 0 }

/-! ## Palette commands -/

/-- R91: encoding, effect, frame and fault of `PAL.SETC`. -/
def Obligations.PalSetcStoresTheColour : Prop :=
  ∀ idx r g b : Byte,
    decode (0x10#8 ++ (idx ++ r ++ g ++ b)) = .ok (.palSetc idx r g b) ∧
    ∀ s : State, MemoriesOk s →
      (idx.toNat < s.cfg.P →
        ∃ t, exec (.palSetc idx r g b) s = .next t ∧ Completed 0 s t ∧
          palRead t idx.toNat = ⟨g, r, b⟩ ∧ (∀ j, j ≠ idx.toNat → palRead t j = palRead s j) ∧
          SameFb1 s t ∧ SameFbm s t ∧ SameOutside s t) ∧
      (s.cfg.P ≤ idx.toNat →
        ∃ t, exec (.palSetc idx r g b) s = .next t ∧ FaultedOnly .paletteIndexOutOfBounds s t)

/-- R92, R57: encoding, effect, frame and fault of `PAL.SETP`: `R = rgb[23:16]`, `G = rgb[15:8]`,
`B = rgb[7:0]`; and `PAL.SETP idx, rgb` has the effect and the `arg` bits of
`PAL.SETC idx, rgb[23:16], rgb[15:8], rgb[7:0]`. -/
def Obligations.PalSetpStoresThePackedColour : Prop :=
  ∀ (idx r g b : Byte),
    decode (0x11#8 ++ (idx ++ (r ++ g ++ b))) = .ok (.palSetp idx (r ++ g ++ b)) ∧
    encodeArg (.palSetp idx (r ++ g ++ b)) = encodeArg (.palSetc idx r g b) ∧
    (∀ s : State, exec (.palSetp idx (r ++ g ++ b)) s = exec (.palSetc idx r g b) s) ∧
    ∀ s : State, MemoriesOk s →
      (idx.toNat < s.cfg.P →
        ∃ t, exec (.palSetp idx (r ++ g ++ b)) s = .next t ∧ Completed 0 s t ∧
          palRead t idx.toNat = ⟨g, r, b⟩ ∧ (∀ j, j ≠ idx.toNat → palRead t j = palRead s j) ∧
          SameFb1 s t ∧ SameFbm s t ∧ SameOutside s t) ∧
      (s.cfg.P ≤ idx.toNat →
        ∃ t, exec (.palSetp idx (r ++ g ++ b)) s = .next t ∧ FaultedOnly .paletteIndexOutOfBounds s t)

/-- R93: encoding, effect, frame and fault of `PAL.SETHSV`. The stored entry is the conversion the
implementation has (R13); where that is an `other` one, its value for `s > 0` is a free value. -/
def Obligations.PalSethsvStoresTheConvertedColour : Prop :=
  ∀ idx h sat v : Byte,
    decode (0x12#8 ++ (idx ++ h ++ sat ++ v)) = .ok (.palSethsv idx h sat v) ∧
    ∀ s : State, MemoriesOk s →
      (idx.toNat < s.cfg.P →
        ∃ t, exec (.palSethsv idx h sat v) s = .next t ∧ Completed 0 s t ∧
          palRead t idx.toNat = hsvToColor s.cfg h sat v ∧
          (sat = 0 → palRead t idx.toNat = ⟨v, v, v⟩) ∧
          (∀ j, j ≠ idx.toNat → palRead t j = palRead s j) ∧
          SameFb1 s t ∧ SameFbm s t ∧ SameOutside s t) ∧
      (s.cfg.P ≤ idx.toNat →
        ∃ t, exec (.palSethsv idx h sat v) s = .next t ∧ FaultedOnly .paletteIndexOutOfBounds s t)

/-- R95: every admissible conversion is achromatic: `HSV2RGB(h, 0, v) = (v, v, v)`. -/
def Obligations.EveryHsvConversionIsAchromatic : Prop :=
  ∀ (c : Config) (h v : Byte), hsvToColor c h 0 v = ⟨v, v, v⟩

/-- R94, the facts of the reference function: every channel is in `0 .. v` and the largest channel is
`v`. -/
def Obligations.HsvReferenceChannelsAreBoundedByValue : Prop :=
  ∀ h s v : Byte,
    (hsvReference h s v).r.toNat ≤ v.toNat ∧ (hsvReference h s v).g.toNat ≤ v.toNat ∧
    (hsvReference h s v).b.toNat ≤ v.toNat ∧
    (v = (hsvReference h s v).r ∨ v = (hsvReference h s v).g ∨ v = (hsvReference h s v).b)

/-- R94, the values given with the reference function, as `(h, s, v) -> (r, g, b)`. -/
def Obligations.HsvReferenceHasTheTabledValues : Prop :=
  ∀ x ∈ ([((0, 255, 255), (255, 0, 0)), ((43, 255, 255), (253, 255, 0)), ((64, 255, 255), (127, 255, 0)),
      ((85, 255, 255), (1, 255, 0)), ((86, 255, 255), (0, 255, 3)), ((128, 255, 255), (0, 255, 255)),
      ((170, 255, 255), (0, 3, 255)), ((171, 255, 255), (1, 0, 255)), ((213, 255, 255), (253, 0, 255)),
      ((255, 255, 255), (255, 0, 5)), ((100, 128, 200), (99, 200, 134)), ((30, 200, 100), (100, 76, 21)),
      ((42, 255, 127), (127, 125, 0)), ((128, 128, 128), (63, 128, 128)), ((255, 1, 1), (1, 0, 0))] :
      List ((Byte × Byte × Byte) × (Byte × Byte × Byte))),
    hsvReference x.1.1 x.1.2.1 x.1.2.2 = ⟨x.2.2.1, x.2.1, x.2.2.2⟩

/-- R96: encoding, effect, frame and faults of `PAL.CYCLE`. -/
def Obligations.PalCycleRotatesTheFirstEntries : Prop :=
  ∀ num : BitVec 16,
    decode (0x13#8 ++ (0#16 ++ num)) = .ok (.palCycle num) ∧
    (∀ hi : BitVec 16, hi ≠ 0 → decode (0x13#8 ++ (hi ++ num)) = .error .reservedBit) ∧
    ∀ s : State, MemoriesOk s →
      (1 ≤ num.toNat → num.toNat ≤ s.cfg.P →
        ∃ t, exec (.palCycle num) s = .next t ∧ Completed 0 s t ∧
          (∀ i, i + 1 < num.toNat → palRead t i = palRead s (i + 1)) ∧
          palRead t (num.toNat - 1) = palRead s 0 ∧
          (∀ i, num.toNat ≤ i → palRead t i = palRead s i) ∧
          SameFb1 s t ∧ SameFbm s t ∧ SameOutside s t) ∧
      (num.toNat < 1 ∨ s.cfg.P < num.toNat →
        ∃ t, exec (.palCycle num) s = .next t ∧ FaultedOnly .cycleCountOutOfBounds s t)

/-- R97: after `j` applications of `PAL.CYCLE k`, `PAL_j[i] = PAL_0[(i + j) mod k]` for `i < k` and the
entries from `k` on are as before; so `k` applications restore the palette. -/
def Obligations.PalCycleHasPeriodK : Prop :=
  ∀ (k : BitVec 16) (s : State), MemoriesOk s → 1 ≤ k.toNat → k.toNat ≤ s.cfg.P →
    (∀ j, ∃ t, execTimes j (.palCycle k) s = .next t ∧
      (∀ i, i < k.toNat → palRead t i = palRead s ((i + j) % k.toNat)) ∧
      (∀ i, k.toNat ≤ i → palRead t i = palRead s i)) ∧
    ∃ t, execTimes k.toNat (.palCycle k) s = .next t ∧ SamePal s t

/-- R98, R66: encoding, answer, frame and faults of `PAL.GET`. -/
def Obligations.PalGetAnswersTheEntry : Prop :=
  ∀ idx : Byte,
    decode (0x14#8 ++ (idx ++ 0#24)) = .ok (.palGet idx) ∧
    (∀ lo : BitVec 24, lo ≠ 0 → decode (0x14#8 ++ (idx ++ lo)) = .error .reservedBit) ∧
    ∀ s : State,
      (idx.toNat < s.cfg.P →
        ∃ t, exec (.palGet idx) s = .next t ∧
          Answered (0#8 ++ (palRead s idx.toNat).g ++ (palRead s idx.toNat).r ++ (palRead s idx.toNat).b) s t) ∧
      (s.cfg.P ≤ idx.toNat →
        ∃ t, exec (.palGet idx) s = .next t ∧ FaultedOnly .paletteIndexOutOfBounds s t)

/-- R58: `PAL.SETC i, r, g, b` followed by a read of the stored entry returns the wire-ordered triple
exactly `(g, r, b)`. -/
def Obligations.PalGetAfterPalSetcReturnsWireOrder : Prop :=
  ∀ (idx r g b : Byte) (s : State), MemoriesOk s → idx.toNat < s.cfg.P →
    ∃ t u, exec (.palSetc idx r g b) s = .next t ∧ exec (.palGet idx) t = .next u ∧
      u.rspCode = 0 ∧ u.rspData = 0#8 ++ g ++ r ++ b

/-! ## Frame-buffer commands -/

/-- R111: encoding, effect, frame and faults of `FB1.FILL`. -/
def Obligations.Fb1FillSetsEveryElement : Prop :=
  ∀ val : Byte,
    decode (0x20#8 ++ (0#24 ++ val)) = .ok (.fb1Fill val) ∧
    (∀ hi : BitVec 24, hi ≠ 0 → decode (0x20#8 ++ (hi ++ val)) = .error .reservedBit) ∧
    ∀ s : State, MemoriesOk s →
      (val.toNat < s.cfg.P →
        ∃ t, exec (.fb1Fill val) s = .next t ∧ Completed 0 s t ∧
          (∀ p, fb1Read t p = if p < s.cfg.N1 then val else fb1Read s p) ∧
          SamePal s t ∧ SameFbm s t ∧ SameOutside s t) ∧
      (s.cfg.P ≤ val.toNat →
        ∃ t, exec (.fb1Fill val) s = .next t ∧ FaultedOnly .paletteIndexOutOfBounds s t)

/-- R112, R201: encoding, effect, frame and faults of `FB1.SET`. -/
def Obligations.Fb1SetSetsOneElement : Prop :=
  ∀ (pos : BitVec 16) (val : Byte),
    decode (0x21#8 ++ (0#8 ++ pos ++ val)) = .ok (.fb1Set pos val) ∧
    (∀ hi : Byte, hi ≠ 0 → decode (0x21#8 ++ (hi ++ pos ++ val)) = .error .reservedBit) ∧
    ∀ s : State, MemoriesOk s →
      (pos.toNat < s.cfg.N1 → val.toNat < s.cfg.P →
        ∃ t, exec (.fb1Set pos val) s = .next t ∧ Completed 0 s t ∧
          (∀ p, fb1Read t p = if p = pos.toNat then val else fb1Read s p) ∧
          SamePal s t ∧ SameFbm s t ∧ SameOutside s t) ∧
      (s.cfg.N1 ≤ pos.toNat →
        ∃ t, exec (.fb1Set pos val) s = .next t ∧ FaultedOnly .positionOutOfBounds s t) ∧
      (pos.toNat < s.cfg.N1 → s.cfg.P ≤ val.toNat →
        ∃ t, exec (.fb1Set pos val) s = .next t ∧ FaultedOnly .paletteIndexOutOfBounds s t)

/-- R114: encoding, effect, frame and faults of `FBM.FILL`. -/
def Obligations.FbmFillSetsEveryElement : Prop :=
  ∀ val : Byte,
    decode (0x30#8 ++ (0#24 ++ val)) = .ok (.fbmFill val) ∧
    (∀ hi : BitVec 24, hi ≠ 0 → decode (0x30#8 ++ (hi ++ val)) = .error .reservedBit) ∧
    ∀ s : State, MemoriesOk s →
      (val.toNat < s.cfg.P →
        ∃ t, exec (.fbmFill val) s = .next t ∧ Completed 0 s t ∧
          (∀ k p, fbmRead t k p = if p < s.cfg.NM then val else fbmRead s k p) ∧
          SamePal s t ∧ SameFb1 s t ∧ SameOutside s t) ∧
      (s.cfg.P ≤ val.toNat →
        ∃ t, exec (.fbmFill val) s = .next t ∧ FaultedOnly .paletteIndexOutOfBounds s t)

/-- R115, R201: encoding, effect, frame and faults of `FBM.SET`. -/
def Obligations.FbmSetSetsOneElement : Prop :=
  ∀ (strip : Byte) (pos : BitVec 16) (val : Byte),
    decode (0x31#8 ++ (strip ++ pos ++ val)) = .ok (.fbmSet strip pos val) ∧
    ∀ s : State, MemoriesOk s →
      (strip.toNat < 8 → pos.toNat < s.cfg.NM → val.toNat < s.cfg.P →
        ∃ t, exec (.fbmSet strip pos val) s = .next t ∧ Completed 0 s t ∧
          (∀ (k : Fin 8) p, fbmRead t k p =
            if k.val = strip.toNat ∧ p = pos.toNat then val else fbmRead s k p) ∧
          SamePal s t ∧ SameFb1 s t ∧ SameOutside s t) ∧
      (8 ≤ strip.toNat ∨ s.cfg.NM ≤ pos.toNat →
        ∃ t, exec (.fbmSet strip pos val) s = .next t ∧ FaultedOnly .positionOutOfBounds s t) ∧
      (strip.toNat < 8 → pos.toNat < s.cfg.NM → s.cfg.P ≤ val.toNat →
        ∃ t, exec (.fbmSet strip pos val) s = .next t ∧ FaultedOnly .paletteIndexOutOfBounds s t)

/-- R116, R66: encoding, answer, frame and faults of `FBM.GET`. -/
def Obligations.FbmGetAnswersTheElement : Prop :=
  ∀ (strip : Byte) (pos : BitVec 16),
    decode (0x32#8 ++ (strip ++ pos ++ 0#8)) = .ok (.fbmGet strip pos) ∧
    (∀ lo : Byte, lo ≠ 0 → decode (0x32#8 ++ (strip ++ pos ++ lo)) = .error .reservedBit) ∧
    ∀ s : State,
      (∀ k : Fin 8, k.val = strip.toNat → pos.toNat < s.cfg.NM →
        ∃ t, exec (.fbmGet strip pos) s = .next t ∧ Answered (0#24 ++ fbmRead s k pos.toNat) s t) ∧
      (8 ≤ strip.toNat ∨ s.cfg.NM ≤ pos.toNat →
        ∃ t, exec (.fbmGet strip pos) s = .next t ∧ FaultedOnly .positionOutOfBounds s t)

/-- R117: no command of one memory changes another memory, and a command that is not of a memory's family
changes nothing in it. -/
def Obligations.MemoriesAreIndependent : Prop :=
  ∀ (i : Instr) (s t : State), exec i s = .next t →
    (i.mnemonic ∉ [Mnemonic.palSetc, .palSetp, .palSethsv, .palCycle] → SamePal s t) ∧
    (i.mnemonic ∉ [Mnemonic.fb1Fill, .fb1Set] → SameFb1 s t) ∧
    (i.mnemonic ∉ [Mnemonic.fbmFill, .fbmSet, .fbmSetxy] → SameFbm s t)

/-! ## The coordinate transform and the latch length -/

/-- R131, in the bit terms the rule gives: `s = {x[4], x[1:0]}`, `m = x[3:2]` or its complement, and
`r = {m, y}` or `{m, ~y}` as `m[0]` is 0 or 1. -/
def Obligations.RowcolIsTheBitFormOfTheRule : Prop :=
  ∀ x y : BitVec 5,
    let m : BitVec 2 := if x.getLsbD 4 then ~~~(x.extractLsb' 2 2) else x.extractLsb' 2 2
    rowcol x.toNat y.toNat =
      ((x.extractLsb' 4 1 ++ x.extractLsb' 0 2).toNat, (m ++ (if m.getLsbD 0 then ~~~y else y)).toNat)

/-- R133: on its domain `rowcol` stays in range and `rowcol_inv` is its inverse, in both directions: a
bijection from the 1024 logical pixels onto the 1024 physical slots. -/
def Obligations.RowcolIsABijection : Prop :=
  (∀ x < 32, ∀ y < 32, (rowcol x y).1 ≤ 7 ∧ (rowcol x y).2 ≤ 127 ∧
    rowcolInv (rowcol x y).1 (rowcol x y).2 = (x, y)) ∧
  (∀ s < 8, ∀ r < 128, (rowcolInv s r).1 < 32 ∧ (rowcolInv s r).2 < 32 ∧
    rowcol (rowcolInv s r).1 (rowcolInv s r).2 = (s, r))

/-- R136, R66: encoding, answer, frame and faults of `XF.ROWCOL`. -/
def Obligations.XfRowcolAnswersThePlace : Prop :=
  ∀ x y : Byte,
    decode (0x40#8 ++ (x ++ y ++ 0#16)) = .ok (.xfRowcol x y) ∧
    (∀ lo : BitVec 16, lo ≠ 0 → decode (0x40#8 ++ (x ++ y ++ lo)) = .error .reservedBit) ∧
    ∀ s : State,
      (s.cfg.NM = 128 → x.toNat < 32 → y.toNat < 32 →
        ∃ t d, exec (.xfRowcol x y) s = .next t ∧ Answered d s t ∧
          d.toNat = (rowcol x.toNat y.toNat).1 * 2 ^ 16 + (rowcol x.toNat y.toNat).2) ∧
      (s.cfg.NM ≠ 128 →
        ∃ t, exec (.xfRowcol x y) s = .next t ∧ FaultedOnly .geometryUnsupported s t) ∧
      (s.cfg.NM = 128 → 32 ≤ x.toNat ∨ 32 ≤ y.toNat →
        ∃ t, exec (.xfRowcol x y) s = .next t ∧ FaultedOnly .coordinateOutOfBounds s t)

/-- R137: encoding, effect, frame and faults of `FBM.SETXY`: it stores at the place `rowcol` gives. -/
def Obligations.FbmSetxyStoresAtThePlace : Prop :=
  ∀ x y val : Byte,
    decode (0x33#8 ++ (x ++ y ++ 0#8 ++ val)) = .ok (.fbmSetxy x y val) ∧
    (∀ mid : Byte, mid ≠ 0 → decode (0x33#8 ++ (x ++ y ++ mid ++ val)) = .error .reservedBit) ∧
    ∀ s : State, MemoriesOk s →
      (s.cfg.NM = 128 → x.toNat < 32 → y.toNat < 32 → val.toNat < s.cfg.P →
        ∃ t, exec (.fbmSetxy x y val) s = .next t ∧ Completed 0 s t ∧
          (∀ (k : Fin 8) p, fbmRead t k p =
            if (k.val, p) = rowcol x.toNat y.toNat then val else fbmRead s k p) ∧
          SamePal s t ∧ SameFb1 s t ∧ SameOutside s t) ∧
      (s.cfg.NM ≠ 128 →
        ∃ t, exec (.fbmSetxy x y val) s = .next t ∧ FaultedOnly .geometryUnsupported s t) ∧
      (s.cfg.NM = 128 → 32 ≤ x.toNat ∨ 32 ≤ y.toNat →
        ∃ t, exec (.fbmSetxy x y val) s = .next t ∧ FaultedOnly .coordinateOutOfBounds s t) ∧
      (s.cfg.NM = 128 → x.toNat < 32 → y.toNat < 32 → s.cfg.P ≤ val.toNat →
        ∃ t, exec (.fbmSetxy x y val) s = .next t ∧ FaultedOnly .paletteIndexOutOfBounds s t)

/-- R138, R66: encoding, answer, frame and faults of `FBM.GETXY`. -/
def Obligations.FbmGetxyAnswersTheElement : Prop :=
  ∀ x y : Byte,
    decode (0x34#8 ++ (x ++ y ++ 0#16)) = .ok (.fbmGetxy x y) ∧
    (∀ lo : BitVec 16, lo ≠ 0 → decode (0x34#8 ++ (x ++ y ++ lo)) = .error .reservedBit) ∧
    ∀ s : State,
      (∀ k : Fin 8, s.cfg.NM = 128 → x.toNat < 32 → y.toNat < 32 → k.val = (rowcol x.toNat y.toNat).1 →
        ∃ t, exec (.fbmGetxy x y) s = .next t ∧
          Answered (0#24 ++ fbmRead s k (rowcol x.toNat y.toNat).2) s t) ∧
      (s.cfg.NM ≠ 128 →
        ∃ t, exec (.fbmGetxy x y) s = .next t ∧ FaultedOnly .geometryUnsupported s t) ∧
      (s.cfg.NM = 128 → 32 ≤ x.toNat ∨ 32 ≤ y.toNat →
        ∃ t, exec (.fbmGetxy x y) s = .next t ∧ FaultedOnly .coordinateOutOfBounds s t)

/-- R137, R138: on the panel, `FBM.SETXY x, y, val` is `FBM.SET s, r, val` and `FBM.GETXY x, y` is
`FBM.GET s, r` with `(s, r) = rowcol(x, y)`: the two addressing modes reach the same memory. -/
def Obligations.PixelAccessIsPlaceAccess : Prop :=
  ∀ (x y val : Byte) (s : State), s.cfg.NM = 128 → x.toNat < 32 → y.toNat < 32 →
    exec (.fbmSetxy x y val) s =
      exec (.fbmSet (BitVec.ofNat 8 (rowcol x.toNat y.toNat).1)
        (BitVec.ofNat 16 (rowcol x.toNat y.toNat).2) val) s ∧
    exec (.fbmGetxy x y) s =
      exec (.fbmGet (BitVec.ofNat 8 (rowcol x.toNat y.toNat).1)
        (BitVec.ofNat 16 (rowcol x.toNat y.toNat).2)) s

/-- R140, R141: encoding, answer and frame of `XF.LATCHLEN`, which no operand makes fault; the answer is
`ceil(n / 32)`, the least count of 32-position segments that covers `n` positions, and is
`(zext_17(n) + 31) >> 5`. -/
def Obligations.XfLatchlenAnswersTheCeiling : Prop :=
  ∀ n : BitVec 16,
    decode (0x41#8 ++ (0#16 ++ n)) = .ok (.xfLatchlen n) ∧
    (∀ hi : BitVec 16, hi ≠ 0 → decode (0x41#8 ++ (hi ++ n)) = .error .reservedBit) ∧
    ∀ s : State, ∃ t d, exec (.xfLatchlen n) s = .next t ∧ Answered d s t ∧
      n.toNat ≤ 32 * d.toNat ∧ 32 * d.toNat < n.toNat + 32 ∧
      d = ((n.setWidth 17 + 31#17) >>> 5).setWidth 32

/-! ## Rendering -/

/-- R153, R154: encoding of `RENDER.S`, and from a transmitter with `LED_CLK = 0` and a frame of valid
indices, its effect: line `SINGLE_LINE` receives exactly the colour bytes of positions `0 .. N1-1` in
the order G, R, B followed at once by the latch run, no other line receives a byte, no memory changes,
the wire carries that frame pin state by pin state with nothing before, inside or after it, and the
sequencer and the pins end at rest. It writes the sequencer registers, the pins and the response, and
nothing else. That `ACT` keeps the line after the render is the model's choice (log entry 7). -/
def Obligations.RenderSSendsTheFrame : Prop :=
  decode (0x50#8 ++ 0#32) = .ok .renderS ∧
  (∀ arg : BitVec 32, arg ≠ 0 → decode (0x50#8 ++ arg) = .error .reservedBit) ∧
  ∀ s : State, s.ledClk = false → (∀ p < s.cfg.N1, (fb1Read s p).toNat < s.cfg.P) →
    ∃ t g, exec .renderS s = .next t ∧ Completed 0 s t ∧ wireTrace t = wireTrace s ++ g ∧
      lineBytes s.cfg.singleLine g = frameBytes (fun p => palRead s (fb1Read s p).toNat) s.cfg.N1 ∧
      (∀ k, k ≠ s.cfg.singleLine → lineBytes k g = []) ∧
      g = frameOnWire (1#8 <<< s.cfg.singleLine.val) s.cfg.N1 (fun _ p => palRead s (fb1Read s p).toNat) ∧
      SameMemories s t ∧ SameSetting s t ∧
      t.act = 1#8 <<< s.cfg.singleLine.val ∧ t.stage = .none ∧ t.phase = .idle ∧
      t.ledClk = false ∧ t.ledData = 0x00 ∧ t.ledSel = 0x00

/-- R156, R157: encoding and effect of `RENDER.M`: every active line `k` receives exactly the colour bytes
of strip `k` followed by the latch run, an inactive line receives nothing; all active lines are sent
together, component by component, pin state by pin state. That `ACT` keeps `LINE_MASK` after the render
is the model's choice (log entry 7). -/
def Obligations.RenderMSendsTheFrames : Prop :=
  decode (0x51#8 ++ 0#32) = .ok .renderM ∧
  (∀ arg : BitVec 32, arg ≠ 0 → decode (0x51#8 ++ arg) = .error .reservedBit) ∧
  ∀ s : State, s.ledClk = false →
    (∀ k, lineBit s.cfg.lineMask k = true → ∀ p < s.cfg.NM, (fbmRead s k p).toNat < s.cfg.P) →
    ∃ t g, exec .renderM s = .next t ∧ Completed 0 s t ∧ wireTrace t = wireTrace s ++ g ∧
      (∀ k, lineBytes k g =
        if lineBit s.cfg.lineMask k then frameBytes (fun p => palRead s (fbmRead s k p).toNat) s.cfg.NM
        else []) ∧
      g = frameOnWire s.cfg.lineMask s.cfg.NM (fun k p => palRead s (fbmRead s k p).toNat) ∧
      SameMemories s t ∧ SameSetting s t ∧
      t.act = s.cfg.lineMask ∧ t.stage = .none ∧ t.phase = .idle ∧
      t.ledClk = false ∧ t.ledData = 0x00 ∧ t.ledSel = 0x00

/-- R155, R180: a render of a buffer of length `N` adds `25 * S` entries to `WIRE` and `8 * S` to `EDGES`
with `S = 3 * N + ceil(N/32)` slots. -/
def Obligations.RenderAddsTheCountedEntries : Prop :=
  ∀ (s t : State), s.ledClk = false →
    (exec .renderS s = .next t → ∃ g, wireTrace t = wireTrace s ++ g ∧
      g.length = 25 * (3 * s.cfg.N1 + (s.cfg.N1 + 31) / 32) ∧
      (edges g).length = 8 * (3 * s.cfg.N1 + (s.cfg.N1 + 31) / 32)) ∧
    (exec .renderM s = .next t → ∃ g, wireTrace t = wireTrace s ++ g ∧
      g.length = 25 * (3 * s.cfg.NM + (s.cfg.NM + 31) / 32) ∧
      (edges g).length = 8 * (3 * s.cfg.NM + (s.cfg.NM + 31) / 32))

/-- R151, R152 (the source: "Every transmitted color byte has its high bit set; every transmitted latch
byte is exactly `0x00`"): in the bytes of a frame the first `3 * n` have bit 7 set and carry the stored
bits 6:0, the others are the `ceil(n/32)` latch bytes `0x00`. -/
def Obligations.FrameBytesAreColourThenLatch : Prop :=
  ∀ (e : Nat → Color) (n : Nat),
    (frameBytes e n).length = 3 * n + (n + 31) / 32 ∧
    (∀ p < n, ∀ j < 3, ∃ v : Byte, (frameBytes e n)[3 * p + j]? = some v ∧ v.getLsbD 7 = true ∧
      ∀ i < 7, v.getLsbD i = ((if j = 0 then (e p).g else if j = 1 then (e p).r else (e p).b).getLsbD i)) ∧
    (∀ q, 3 * n ≤ q → q < 3 * n + (n + 31) / 32 → (frameBytes e n)[q]? = some 0x00)

/-- R160: lines that are not active in a render have `LED_SEL[k] = 0` and `LED_DATA[k] = 0` for the whole
render. -/
def Obligations.InactiveLinesStayDark : Prop :=
  ∀ (s t : State) (k : Fin 8), s.ledClk = false →
    (exec .renderS s = .next t → k ≠ s.cfg.singleLine →
      ∃ g, wireTrace t = wireTrace s ++ g ∧ ∀ p ∈ g, lineBit p.sel k = false ∧ lineBit p.data k = false) ∧
    (exec .renderM s = .next t → lineBit s.cfg.lineMask k = false →
      ∃ g, wireTrace t = wireTrace s ++ g ∧ ∀ p ∈ g, lineBit p.sel k = false ∧ lineBit p.data k = false)

/-- R153, R156: `FBM` has no influence on `RENDER.S`, `FB1` none on `RENDER.M`, and the strip of an inactive
line none on `RENDER.M`. -/
def Obligations.RenderReadsItsOwnBufferOnly : Prop :=
  (∀ (s t : State) (f : Lanes (List Host.Cell)), exec .renderS s = .next t →
    exec .renderS { s with fbm := f } = .next { t with fbm := f }) ∧
  (∀ (s t : State) (f : List Host.Cell), exec .renderM s = .next t →
    exec .renderM { s with fb1 := f } = .next { t with fb1 := f }) ∧
  (∀ (s t : State) (f : Lanes (List Host.Cell)),
    (∀ k, lineBit s.cfg.lineMask k = true → f.get k = s.fbm.get k) → exec .renderM s = .next t →
    exec .renderM { s with fbm := f } = .next { t with fbm := f })

/-- R158: "a palette read with an index `>= P` inside a render must be a model fault, never a value". -/
def Obligations.RenderStopsOnAnIndexOutsideThePalette : Prop :=
  (∀ (s : State) (p : Nat), p < s.cfg.N1 → s.cfg.P ≤ (fb1Read s p).toNat →
    exec .renderS s = .fault .paletteIndexAtRender) ∧
  (∀ (s : State) (k : Fin 8) (p : Nat), p < s.cfg.NM → lineBit s.cfg.lineMask k = true →
    s.cfg.P ≤ (fbmRead s k p).toNat → exec .renderM s = .fault .paletteIndexAtRender)

/-- R173, R178, R179: a completed `TxSlot(b, act)` from `LED_CLK = 0` adds 25 pin states: for bits 7 down
to 0 three with the clock low, high, low and the same data and select, then one with the select 0. Its
eight edges carry, at entry `j`, bit `7 - j` of `b[k]` on each active line and 0 on the others, with
select `act`; each active line gains the byte `b[k]` and the others nothing; the transmitter ends in
`IDLE` with the clock low and the selects 0, and no memory changes. -/
def Obligations.SlotSendsOneByteOnEveryActiveLine : Prop :=
  ∀ (b : Lanes Byte) (s : State), s.ledClk = false →
    ∃ g, wireTrace (txSlot b s) = wireTrace s ++ g ∧ g.length = 25 ∧ (edges g).length = 8 ∧
      (∀ j < 8, ∃ d : Byte, g[3 * j]? = some ⟨false, d, s.act⟩ ∧ g[3 * j + 1]? = some ⟨true, d, s.act⟩ ∧
        g[3 * j + 2]? = some ⟨false, d, s.act⟩ ∧ (edges g)[j]? = some (d, s.act) ∧
        ∀ k, lineBit d k = (lineBit s.act k && (b.get k).getLsbD (7 - j))) ∧
      (∃ d : Byte, g[24]? = some ⟨false, d, 0x00⟩ ∧
        ∀ k, lineBit d k = (lineBit s.act k && (b.get k).getLsbD 0)) ∧
      (∀ k, lineBytes k g = if lineBit s.act k then [b.get k] else []) ∧
      (txSlot b s).shift = b ∧ (txSlot b s).act = s.act ∧ (txSlot b s).bitn = 0 ∧
      (txSlot b s).phase = .idle ∧ (txSlot b s).ledClk = false ∧ (txSlot b s).ledSel = 0x00 ∧
      SameMemories s (txSlot b s)

/-! ## Phase steps -/

/-- R174: the phases of the per-byte state machine, in a step without reset of a render in progress: what
each writes, the transitions, and the pin state each appends to `WIRE`. That a slot starts is read from
`STAGE` and `LCNT` as the model moves them, a choice of its own (log entry 13). -/
def Obligations.PhaseStepsFollowTheStateMachine : Prop :=
  ∀ s : State, BlockInv s → s.stage ≠ .none → (hostInput s).rst = false →
    (s.phase = .setData → ∃ t, step s = .next t ∧ t.phase = .clockHigh ∧ t.ledClk = true ∧
      t.ledData = s.ledData ∧ t.ledSel = s.ledSel ∧ t.wire = pins t :: s.wire ∧ t.bitn = s.bitn) ∧
    (s.phase = .clockHigh → ∃ t, step s = .next t ∧ t.phase = .clockLow ∧ t.ledClk = false ∧
      t.ledData = s.ledData ∧ t.ledSel = s.ledSel ∧ t.wire = pins t :: s.wire ∧ t.bitn = s.bitn) ∧
    (s.phase = .clockLow → 0 < s.bitn.toNat → ∃ t, step s = .next t ∧ t.phase = .setData ∧
      t.bitn.toNat = s.bitn.toNat - 1 ∧ t.ledClk = false ∧ t.ledSel = s.act ∧ t.shift = s.shift ∧
      (∀ k, lineBit t.ledData k = (lineBit s.act k && (s.shift.get k).getLsbD (s.bitn.toNat - 1))) ∧
      t.wire = pins t :: s.wire) ∧
    (s.phase = .clockLow → s.bitn.toNat = 0 → ∃ t, step s = .next t ∧ t.phase = .idle ∧
      t.ledClk = false ∧ t.ledData = s.ledData ∧ t.ledSel = 0x00 ∧ t.wire = pins t :: s.wire) ∧
    (s.phase = .idle → (s.stage = .latch → s.lcnt ≠ 0) → ∃ t, step s = .next t ∧ t.phase = .setData ∧
      t.bitn = 7 ∧ t.ledClk = false ∧ t.ledSel = s.act ∧
      (∀ k, lineBit t.ledData k = (lineBit s.act k && (t.shift.get k).getLsbD 7)) ∧
      t.wire = pins t :: s.wire)

/-- R35 (at the level of whole commands a model may take one atomic transition per command): from every
state that meets the invariant and is ready, a command accepted and then taken phase by phase ends
in the same state as the one step that takes it whole, after the number of steps R233 counts. -/
def Obligations.PhaseByPhaseIsTheWholeCommand : Prop :=
  ∀ (s : State) (op : Byte) (arg : BitVec 32), BlockInv s → s.busy = false →
    run (stepsOf s.cfg (decode (op ++ arg))) { s with host := [offer false op arg] } =
      step { s with host := [offer true op arg] }

/-- R223: if reset falls after `j` phase steps of a render, `WIRE` holds the first `j` pin states of that
render followed by `(0, 0x00, 0x00)`, the state is the reset state and the render gives no response. -/
def Obligations.ResetInsideARenderCutsTheFrame : Prop :=
  ∀ (s : State) (m : RenderMode) (j : Nat), BlockInv s → s.busy = false → j ≤ (frameWire m s).length →
    ∃ t, run (j + 3)
        { s with
          host := offer false (match m with | .single => 0x50 | .multi => 0x51) 0 ::
            (List.replicate (j + 1) HostInput.idle ++ [resetInput]) } = .next t ∧
      wireTrace t = wireTrace s ++ (frameWire m s).take j ++ [⟨false, 0x00, 0x00⟩] ∧
      t = { State.resetOf s.cfg with wire := t.wire, responses := s.responses }

/-- R240: under the progress assumption, a block that is busy completes its command within the bounded
number of steps a render can take, if the host asserts no reset. -/
def Obligations.BusyBlockCompletes : Prop :=
  ∀ s : State, BlockInv s → s.busy = true → (∀ e ∈ s.host, e.rst = false) →
    ∃ k t, k ≤ 3 + 25 * (3 * max s.cfg.N1 s.cfg.NM + latchBytes (max s.cfg.N1 s.cfg.NM)) ∧
      run k s = .next t ∧ t.busy = false ∧ t.rspValid = true

/-! ## Whole-machine rules -/

/-- R90, R110: a command that is no render leaves the pins, the wire trace, the sequencer registers, the
command register and the parameters as they were. -/
def Obligations.OnlyRendersMoveThePins : Prop :=
  ∀ (i : Instr) (s t : State), i ≠ .renderS → i ≠ .renderM → exec i s = .next t → SameOutside s t

/-- R34: the parameters are constants: no step changes them. -/
def Obligations.ParametersNeverChange : Prop :=
  ∀ s t : State, step s = .next t → t.cfg = s.cfg

/-- R175: in every step that is no reset, the data and select pins keep their values around every rising
edge: they change only while the clock is low. -/
def Obligations.PinsAreStableAroundTheClock : Prop :=
  ∀ s t : State, BlockInv s → (hostInput s).rst = false → step s = .next t →
    ∃ g, wireTrace t = wireTrace s ++ g ∧ StablePins (pins s :: g)

/-- R176: in `IDLE` the clock is low and every line is de-selected, and whenever no command is executing
the transmitter is in `IDLE` with `LED_DATA = 0x00`; so it is again after every step. -/
def Obligations.TheWireRestsBetweenCommands : Prop :=
  ∀ s t : State, BlockInv s → step s = .next t →
    (t.phase = .idle → t.ledClk = false ∧ t.ledSel = 0x00) ∧
    (t.busy = false → t.phase = .idle ∧ t.stage = .none ∧ t.ledData = 0x00)

/-- The invariant holds after reset, for every choice of the parameters (R26, R36). -/
def Obligations.ResetMeetsTheInvariant : Prop :=
  (∀ c : Config, BlockInv (State.resetOf c)) ∧ BlockInv State.reset

/-- Every step keeps the invariant: the memories keep their canonical form and `INV_IDX` (R26), `FAULT[7:6]`
stays 0 and the status registers agree (R30, R32), the pins agree with the phase (R174), the sequencer
is at rest between commands with the pins idle (R27, R176) and in range inside a render (R27), its
registers moving on where the model has them do so (log entry 13). -/
def Obligations.EveryStepKeepsTheInvariant : Prop :=
  ∀ s t : State, BlockInv s → step s = .next t → BlockInv t

/-- R158, R240: from a state that meets the invariant no step stops. -/
def Obligations.NoStepStops : Prop :=
  ∀ s : State, BlockInv s → ∃ t, step s = .next t
end

