-- ==== Sys2Proof/Laws/Encoding.lean ====
section
/-!
SUPPORT. The encoding in exact numbers: what an appended word, a field of a word, an operand word and a
command word are as natural numbers, and the decoder on `{op, arg}`.
-/

namespace Sys2Proof

theorem toNat_append_eq {m n : Nat} (a : BitVec m) (b : BitVec n) :
    (a ++ b).toNat = a.toNat * 2 ^ n + b.toNat := by
  rw [BitVec.toNat_append, ← Nat.shiftLeft_add_eq_or_of_lt b.isLt, Nat.shiftLeft_eq]

/-- A field of a word, as a number. -/
theorem toNat_field {w : Nat} (x : BitVec w) (lo len : Nat) :
    (x.extractLsb' lo len).toNat = x.toNat / 2 ^ lo % 2 ^ len := by
  rw [BitVec.extractLsb'_toNat, Nat.shiftRight_eq_div_pow]

/-- A field of a word is `y` when the numbers agree. -/
theorem field_eq {w lo len : Nat} (x : BitVec w) (y : BitVec len)
    (h : x.toNat / 2 ^ lo % 2 ^ len = y.toNat) : x.extractLsb' lo len = y :=
  BitVec.eq_of_toNat_eq (by rw [toNat_field, h])

/-- The decoder on a word written as `{op, arg}`. -/
theorem decode_append (op : Byte) (arg : BitVec 32) : decode (op ++ arg) = decodeParts op arg := by
  have h1 : (op ++ arg).extractLsb' 32 8 = op := BitVec.extractLsb'_append_eq_left
  have h2 : (op ++ arg).extractLsb' 0 32 = arg := BitVec.extractLsb'_append_eq_right
  exact congrArg₂ decodeParts h1 h2

/-- The word `{op, arg}` made of the two parts of a word is that word. -/
theorem append_parts (w : CommandWord) : w.extractLsb' 32 8 ++ w.extractLsb' 0 32 = w := by
  apply BitVec.eq_of_toNat_eq
  have h := toNat_append_eq (w.extractLsb' 32 8) (w.extractLsb' 0 32)
  rw [toNat_field, toNat_field] at h
  have := w.isLt
  refine Eq.trans h ?_
  omega

/-- The command word `{op, arg}` as a number. -/
theorem toNat_word (op : Byte) (arg : BitVec 32) : (op ++ arg : CommandWord).toNat = op.toNat * 4294967296 + arg.toNat :=
  toNat_append_eq op arg

/-- `{a, b, c, d}` of four bytes as a number. -/
theorem toNat_bytes4 (a b c d : Byte) :
    (a ++ b ++ c ++ d : BitVec 32).toNat =
      a.toNat * 16777216 + (b.toNat * 65536 + (c.toNat * 256 + d.toNat)) := by
  have h1 := toNat_append_eq (a ++ b ++ c) d
  have h2 := toNat_append_eq (a ++ b) c
  have h3 := toNat_append_eq a b
  refine h1.trans ?_
  omega

/-- `{a, p, d}` of a byte, a 16-bit value and a byte as a number. -/
theorem toNat_byte_half_byte (a : Byte) (p : BitVec 16) (d : Byte) :
    (a ++ p ++ d : BitVec 32).toNat = a.toNat * 16777216 + (p.toNat * 256 + d.toNat) := by
  have h1 := toNat_append_eq (a ++ p) d
  have h2 := toNat_append_eq a p
  refine h1.trans ?_
  omega

/-- `{a, b, p}` of two bytes and a 16-bit value as a number. -/
theorem toNat_byte_byte_half (a b : Byte) (p : BitVec 16) :
    (a ++ b ++ p : BitVec 32).toNat = a.toNat * 16777216 + (b.toNat * 65536 + p.toNat) := by
  have h1 := toNat_append_eq (a ++ b) p
  have h2 := toNat_append_eq a b
  refine h1.trans ?_
  omega

/-- `{a, x}` of a byte and a 24-bit value as a number. -/
theorem toNat_byte_rest (a : Byte) (x : BitVec 24) :
    (a ++ x : BitVec 32).toNat = a.toNat * 16777216 + x.toNat := toNat_append_eq a x

/-- `{x, a}` of a 24-bit value and a byte as a number. -/
theorem toNat_rest_byte (x : BitVec 24) (a : Byte) :
    (x ++ a : BitVec 32).toNat = x.toNat * 256 + a.toNat := toNat_append_eq x a

/-- `{p, q}` of two 16-bit values as a number. -/
theorem toNat_halves (p q : BitVec 16) : (p ++ q : BitVec 32).toNat = p.toNat * 65536 + q.toNat :=
  toNat_append_eq p q

/-- The operand word of a command as a number: its operands at the places of their fields. -/
def argNat : Instr → Nat
  | .palSetc idx r g b => idx.toNat * 16777216 + (r.toNat * 65536 + (g.toNat * 256 + b.toNat))
  | .palSetp idx rgb => idx.toNat * 16777216 + rgb.toNat
  | .palSethsv idx h s v => idx.toNat * 16777216 + (h.toNat * 65536 + (s.toNat * 256 + v.toNat))
  | .palCycle num => num.toNat
  | .palGet idx => idx.toNat * 16777216
  | .fb1Fill val => val.toNat
  | .fb1Set pos val => pos.toNat * 256 + val.toNat
  | .fbmFill val => val.toNat
  | .fbmSet strip pos val => strip.toNat * 16777216 + (pos.toNat * 256 + val.toNat)
  | .fbmGet strip pos => strip.toNat * 16777216 + pos.toNat * 256
  | .fbmSetxy x y val => x.toNat * 16777216 + (y.toNat * 65536 + val.toNat)
  | .fbmGetxy x y => x.toNat * 16777216 + y.toNat * 65536
  | .xfRowcol x y => x.toNat * 16777216 + y.toNat * 65536
  | .xfLatchlen n => n.toNat
  | .renderS => 0
  | .renderM => 0

theorem toNat_encodeArg (i : Instr) : (encodeArg i).toNat = argNat i := by
  cases i <;>
    simp [encodeArg, argNat, toNat_bytes4, toNat_byte_half_byte, toNat_byte_byte_half, toNat_byte_rest,
      toNat_rest_byte, toNat_halves]

/-- The opcode map read backwards gives each command's opcode back its command. -/
theorem opcodeMnemonic_opcode (m : Mnemonic) : opcodeMnemonic m.opcode = some m := by cases m <;> rfl

/-- Only its opcode stands for a command. -/
theorem opcode_of_opcodeMnemonic {op : Byte} {m : Mnemonic} (h : opcodeMnemonic op = some m) : op = m.opcode := by
  have := List.find?_some h
  exact (of_decide_eq_true this).symm

/-- The reserved bits are zero exactly when their field, as a number, is 0. -/
theorem reservedZero_iff (f : Format) (arg : BitVec 32) :
    reservedZero f arg = true ↔ arg.toNat / 2 ^ f.reserved.1 % 2 ^ f.reserved.2 = 0 := by
  rw [reservedZero, decide_eq_true_eq, ← toNat_field]
  exact ⟨fun h => by rw [h]; rfl, fun h => BitVec.eq_of_toNat_eq h⟩

/-- The mnemonic of what the decoder builds. -/
@[simp] theorem mnemonic_build (m : Mnemonic) (arg : BitVec 32) : (m.build arg).mnemonic = m := by cases m <;> rfl

/-- Exactly when the decoder answers a command. -/
theorem decodeParts_eq_ok {op : Byte} {arg : BitVec 32} {i : Instr} :
    decodeParts op arg = .ok i ↔
      ∃ m : Mnemonic, op = m.opcode ∧ reservedZero m.format arg = true ∧ i = m.build arg := by
  constructor
  · intro h
    unfold decodeParts at h
    split at h
    · cases h
    · next m hm =>
      split_ifs at h with hr
      exact ⟨m, opcode_of_opcodeMnemonic hm, hr, by injection h with h; exact h.symm⟩
  · rintro ⟨m, rfl, hr, rfl⟩
    simp [decodeParts, opcodeMnemonic_opcode, hr]

/-- A word with an assigned opcode and a reserved bit set is no command (spec/30_encoding.md R74). -/
theorem decode_of_reserved {m : Mnemonic} {arg : BitVec 32}
    (h : arg.toNat / 2 ^ m.format.reserved.1 % 2 ^ m.format.reserved.2 ≠ 0) :
    decode (m.opcode ++ arg) = .error .reservedBit := by
  have : reservedZero m.format arg ≠ true := by rw [Ne, reservedZero_iff]; exact h
  simp [decode_append, decodeParts, opcodeMnemonic_opcode, this]

/-- The reserved field of a format, with its place written out. -/
theorem reservedZero_at {f : Format} {arg : BitVec 32} {lo len : Nat} (h : f.reserved = (lo, len)) :
    reservedZero f arg = decide (arg.extractLsb' lo len = 0) := by
  unfold reservedZero
  rw [h]

/-- When the assembler takes a line, as a proposition. -/
theorem SourceLine.wf_iff (l : SourceLine) :
    l.wf = true ↔ l.operands.length = l.mnemonic.fields.length ∧
      ∀ x ∈ l.operands.zip l.mnemonic.fields, x.1 < 2 ^ x.2.1 := by
  simp [SourceLine.wf]

end Sys2Proof
end

