-- ==== Sys2Proof/Laws/Memory.lean ====
section
/-!
SUPPORT. The laws of lanes, line masks and the sparse memory: a read after a write, a read of a filled
memory, and that every memory operation keeps the canonical form.
-/

namespace Sys2Proof

theorem Lanes.get_set {α : Type} (l : Lanes α) (j k : Fin 8) (v : α) :
    (l.set j v).get k = if k = j then v else l.get k := by
  fin_cases j <;> fin_cases k <;> rfl

@[simp] theorem Lanes.get_set_self {α : Type} (l : Lanes α) (j : Fin 8) (v : α) :
    (l.set j v).get j = v := by simp [Lanes.get_set]

theorem Lanes.get_set_of_ne {α : Type} (l : Lanes α) {j k : Fin 8} (v : α) (h : k ≠ j) :
    (l.set j v).get k = l.get k := by simp [Lanes.get_set, h]

@[simp] theorem Lanes.get_ofFn {α : Type} (f : Fin 8 → α) (k : Fin 8) : (Lanes.ofFn f).get k = f k := by
  fin_cases k <;> rfl

theorem Lanes.ext_get {α : Type} {a b : Lanes α} (h : ∀ k, a.get k = b.get k) : a = b := by
  have := h 0; have := h 1; have := h 2; have := h 3; have := h 4; have := h 5; have := h 6; have := h 7
  cases a; cases b; simp_all [Lanes.get]

@[simp] theorem Lanes.ofFn_get {α : Type} (l : Lanes α) : Lanes.ofFn l.get = l :=
  Lanes.ext_get fun k => by simp

/-- Bit `k` of a byte built line by line. -/
@[simp] theorem lineBit_byteOfLines (f : Fin 8 → Bool) (k : Fin 8) : lineBit (byteOfLines f) k = f k := by
  unfold lineBit byteOfLines
  rw [BitVec.getLsbD_ofBoolListLE]
  fin_cases k <;> rfl

theorem byte_ext_lines {a b : Byte} (h : ∀ k, lineBit a k = lineBit b k) : a = b := by
  apply BitVec.eq_of_getLsbD_eq
  intro i hi
  exact h ⟨i, hi⟩

@[simp] theorem byteOfLines_lineBit (v : Byte) : byteOfLines (lineBit v) = v :=
  byte_ext_lines fun k => by simp

@[simp] theorem byteOfLines_false : byteOfLines (fun _ => false) = 0 := by decide

@[simp] theorem lineBit_zero (k : Fin 8) : lineBit 0#8 k = false := by simp [lineBit]

section
variable {α : Type}

@[simp] theorem Memory.read_nil (d : α) (a : Nat) : Memory.read d ([] : Memory α) a = d := rfl

theorem Memory.read_cons (d : α) (b : Nat) (v : α) (m : Memory α) (a : Nat) :
    Memory.read d ((b, v) :: m) a = if a = b then v else Memory.read d m a := rfl

/-- An index that is not listed reads as its default. -/
theorem Memory.read_unlisted (d : α) (m : Memory α) (a : Nat) (h : ∀ c ∈ m, c.1 ≠ a) :
    Memory.read d m a = d := by
  induction m with
  | nil => rfl
  | cons c m ih =>
    obtain ⟨b, v⟩ := c
    have hb : a ≠ b := fun e => h (b, v) (by simp) e.symm
    rw [Memory.read_cons, if_neg hb]
    exact ih fun c hc => h c (by simp [hc])

variable [DecidableEq α]

theorem Memory.wf_nil (d : Nat → α) (n : Nat) : Memory.wf d n ([] : Memory α) := by
  simp [Memory.wf]

theorem Memory.wf_tail {d : Nat → α} {n : Nat} {c : Nat × α} {m : Memory α} (h : Memory.wf d n (c :: m)) :
    Memory.wf d n m :=
  ⟨(List.pairwise_cons.1 h.1).2, fun c' hc => h.2 c' (by simp [hc])⟩

/-- Every listed element after the first lies at a higher index. -/
theorem Memory.wf_head_lt {d : Nat → α} {n : Nat} {b : Nat} {v : α} {m : Memory α}
    (h : Memory.wf d n ((b, v) :: m)) : ∀ c ∈ m, b < c.1 :=
  fun c hc => (List.pairwise_cons.1 h.1).1 c hc

/-- A write changes the element read at its index only. -/
theorem Memory.read_write_of_ne (d : α) (a : Nat) (v : α) (d' : α) (m : Memory α) (b : Nat) (h : b ≠ a) :
    Memory.read d' (Memory.write d a v m) b = Memory.read d' m b := by
  induction m with
  | nil => by_cases hv : v = d <;> simp [Memory.write, Memory.read_cons, hv, h]
  | cons c m ih =>
    obtain ⟨i, w⟩ := c
    unfold Memory.write
    split_ifs with h1 h2 h3 h4
    · rfl
    · rw [Memory.read_cons, if_neg h]
    · rw [Memory.read_cons, if_neg (h3 ▸ h)]
    · rw [Memory.read_cons, Memory.read_cons, if_neg h, if_neg (h3 ▸ h)]
    · rw [Memory.read_cons, Memory.read_cons, ih]

/-- A read at the index written gives the value written, in a memory in canonical form. -/
theorem Memory.read_write_self {d : Nat → α} {n : Nat} (a : Nat) (v : α) {m : Memory α}
    (h : Memory.wf d n m) : Memory.read (d a) (Memory.write (d a) a v m) a = v := by
  induction m with
  | nil => by_cases hv : v = d a <;> simp [Memory.write, Memory.read_cons, hv]
  | cons c m ih =>
    obtain ⟨i, w⟩ := c
    have hlt := Memory.wf_head_lt h
    unfold Memory.write
    split_ifs with h1 h2 h3 h4
    · rw [h2]
      apply Memory.read_unlisted
      intro c hc e
      rcases List.mem_cons.1 hc with rfl | hc
      · simp at e; omega
      · have := hlt c hc; omega
    · simp [Memory.read_cons]
    · rw [h4]
      apply Memory.read_unlisted
      intro c hc e
      have := hlt c hc; omega
    · simp [Memory.read_cons]
    · rw [Memory.read_cons, if_neg h3]
      exact ih (Memory.wf_tail h)

theorem Memory.mem_write {d : α} {a : Nat} {v : α} {m : Memory α} {c : Nat × α}
    (h : c ∈ Memory.write d a v m) : c ∈ m ∨ (c = (a, v) ∧ v ≠ d) := by
  induction m with
  | nil => by_cases hv : v = d <;> simp_all [Memory.write]
  | cons c' m ih =>
    obtain ⟨i, w⟩ := c'
    unfold Memory.write at h
    split_ifs at h with h1 h2 h3 h4
    · exact .inl h
    · rcases List.mem_cons.1 h with h | h
      · exact .inr ⟨h, h2⟩
      · exact .inl h
    · exact .inl (by simp [h])
    · rcases List.mem_cons.1 h with h | h
      · exact .inr ⟨h, h4⟩
      · exact .inl (by simp [h])
    · rcases List.mem_cons.1 h with h | h
      · exact .inl (by simp [h])
      · rcases ih h with h | h
        · exact .inl (by simp [h])
        · exact .inr h

/-- A write at a valid index keeps the canonical form. -/
theorem Memory.wf_write {d : Nat → α} {n a : Nat} (v : α) {m : Memory α} (h : Memory.wf d n m) (ha : a < n) :
    Memory.wf d n (Memory.write (d a) a v m) := by
  refine ⟨?_, fun c hc => ?_⟩
  · induction m with
    | nil => by_cases hv : v = d a <;> simp [Memory.write, hv]
    | cons c m ih =>
      obtain ⟨i, w⟩ := c
      have hlt := Memory.wf_head_lt h
      unfold Memory.write
      split_ifs with h1 h2 h3 h4
      · exact h.1
      · refine List.pairwise_cons.2 ⟨fun c hc => ?_, h.1⟩
        rcases List.mem_cons.1 hc with rfl | hc
        · exact h1
        · have := hlt c hc; simp; omega
      · exact (Memory.wf_tail h).1
      · exact List.pairwise_cons.2 ⟨fun c hc => by have := hlt c hc; simp; omega, (Memory.wf_tail h).1⟩
      · refine List.pairwise_cons.2 ⟨fun c hc => ?_, ih (Memory.wf_tail h)⟩
        rcases Memory.mem_write hc with hc | ⟨rfl, -⟩
        · exact hlt c hc
        · simp; omega
  · rcases Memory.mem_write hc with hc | ⟨rfl, hv⟩
    · exact h.2 c hc
    · exact ⟨ha, hv⟩

theorem Memory.read_map_range (d : α) (v : α) (n k a : Nat) :
    Memory.read d ((List.range' k n).map fun i => (i, v)) a = if k ≤ a ∧ a < k + n then v else d := by
  induction n generalizing k with
  | zero => simp
  | succ n ih =>
    rw [List.range'_succ, List.map_cons, Memory.read_cons, ih]
    split_ifs <;> first | rfl | omega

/-- A filled memory reads as the value at every valid index. -/
theorem Memory.read_fill (d : α) (n : Nat) (v : α) (a : Nat) :
    Memory.read d (Memory.fill d n v) a = if a < n then v else d := by
  unfold Memory.fill
  split_ifs with h1 h2 h2
  · simp [h1]
  · rfl
  · rw [List.range_eq_range', Memory.read_map_range]; simp [h2]
  · rw [List.range_eq_range', Memory.read_map_range]; simp [h2]

/-- A filled memory is in canonical form. -/
theorem Memory.wf_fill (d : α) (n : Nat) (v : α) : Memory.wf (fun _ => d) n (Memory.fill d n v) := by
  unfold Memory.fill
  split_ifs with h
  · exact Memory.wf_nil _ _
  · refine ⟨?_, fun c hc => ?_⟩
    · rw [List.pairwise_map]
      exact List.pairwise_lt_range
    · obtain ⟨i, hi, rfl⟩ := List.mem_map.1 hc
      exact ⟨List.mem_range.1 hi, h⟩

/-- Memories in canonical form that read alike are equal. -/
theorem Memory.eq_of_read_eq {d : Nat → α} {n : Nat} {m m' : Memory α} (h : Memory.wf d n m)
    (h' : Memory.wf d n m') (hr : ∀ a, Memory.read (d a) m a = Memory.read (d a) m' a) : m = m' := by
  have key : ∀ {i : Nat} {w : α} {m m' : Memory α}, Memory.wf d n ((i, w) :: m) → (∀ c ∈ m', i < c.1) →
      Memory.read (d i) ((i, w) :: m) i ≠ Memory.read (d i) m' i := by
    intro i w m m' h hlt e
    rw [Memory.read_cons, if_pos rfl, Memory.read_unlisted (d i) m' i (fun c hc e => by have := hlt c hc; omega)] at e
    exact (h.2 (i, w) (by simp)).2 e
  induction m generalizing m' with
  | nil =>
    cases m' with
    | nil => rfl
    | cons c' m' =>
      obtain ⟨i, w⟩ := c'
      exact absurd (hr i).symm (key h' (by simp))
  | cons c m ih =>
    obtain ⟨i, w⟩ := c
    cases m' with
    | nil => exact absurd (hr i) (key h (by simp))
    | cons c' m' =>
      obtain ⟨j, x⟩ := c'
      have hi := Memory.wf_head_lt h
      have hj := Memory.wf_head_lt h'
      rcases Nat.lt_trichotomy i j with hij | hij | hij
      · refine absurd (hr i) (key h fun c hc => ?_)
        rcases List.mem_cons.1 hc with rfl | hc
        · exact hij
        · have := hj c hc; omega
      · subst hij
        have hw : w = x := by simpa [Memory.read_cons] using hr i
        subst hw
        congr 1
        apply ih (Memory.wf_tail h) (Memory.wf_tail h')
        intro a
        by_cases ha : a = i
        · subst ha
          rw [Memory.read_unlisted _ _ _ fun c hc e => by have := hi c hc; omega,
            Memory.read_unlisted _ _ _ fun c hc e => by have := hj c hc; omega]
        · simpa [Memory.read_cons, ha] using hr a
      · refine absurd (hr j).symm (key h' fun c hc => ?_)
        rcases List.mem_cons.1 hc with rfl | hc
        · exact hij
        · have := hi c hc; omega

end

end Sys2Proof
end

