-- ==== Sys2Proof/Laws/State.lean ====
section
/-!
SUPPORT. For each operation that updates the state, one lemma for each field: what the field holds
afterwards. True by rfl and tagged simp, so that no later proof unfolds a record update.
-/

namespace Sys2Proof.Machine

@[simp] theorem palWrite_cfg (i : Nat) (e : Color) (s : State) : (palWrite i e s).cfg = s.cfg := rfl
@[simp] theorem palWrite_pal (i : Nat) (e : Color) (s : State) :
    (palWrite i e s).pal = Memory.write (paletteInitAt s.cfg i) i e s.pal := rfl
@[simp] theorem palWrite_fb1 (i : Nat) (e : Color) (s : State) : (palWrite i e s).fb1 = s.fb1 := rfl
@[simp] theorem palWrite_fbm (i : Nat) (e : Color) (s : State) : (palWrite i e s).fbm = s.fbm := rfl
@[simp] theorem palWrite_fault (i : Nat) (e : Color) (s : State) : (palWrite i e s).fault = s.fault := rfl
@[simp] theorem palWrite_busy (i : Nat) (e : Color) (s : State) : (palWrite i e s).busy = s.busy := rfl
@[simp] theorem palWrite_rspValid (i : Nat) (e : Color) (s : State) : (palWrite i e s).rspValid = s.rspValid := rfl
@[simp] theorem palWrite_rspCode (i : Nat) (e : Color) (s : State) : (palWrite i e s).rspCode = s.rspCode := rfl
@[simp] theorem palWrite_rspData (i : Nat) (e : Color) (s : State) : (palWrite i e s).rspData = s.rspData := rfl
@[simp] theorem palWrite_cmdrOp (i : Nat) (e : Color) (s : State) : (palWrite i e s).cmdrOp = s.cmdrOp := rfl
@[simp] theorem palWrite_cmdrArg (i : Nat) (e : Color) (s : State) : (palWrite i e s).cmdrArg = s.cmdrArg := rfl
@[simp] theorem palWrite_stage (i : Nat) (e : Color) (s : State) : (palWrite i e s).stage = s.stage := rfl
@[simp] theorem palWrite_pos (i : Nat) (e : Color) (s : State) : (palWrite i e s).pos = s.pos := rfl
@[simp] theorem palWrite_comp (i : Nat) (e : Color) (s : State) : (palWrite i e s).comp = s.comp := rfl
@[simp] theorem palWrite_lcnt (i : Nat) (e : Color) (s : State) : (palWrite i e s).lcnt = s.lcnt := rfl
@[simp] theorem palWrite_act (i : Nat) (e : Color) (s : State) : (palWrite i e s).act = s.act := rfl
@[simp] theorem palWrite_shift (i : Nat) (e : Color) (s : State) : (palWrite i e s).shift = s.shift := rfl
@[simp] theorem palWrite_bitn (i : Nat) (e : Color) (s : State) : (palWrite i e s).bitn = s.bitn := rfl
@[simp] theorem palWrite_phase (i : Nat) (e : Color) (s : State) : (palWrite i e s).phase = s.phase := rfl
@[simp] theorem palWrite_ledClk (i : Nat) (e : Color) (s : State) : (palWrite i e s).ledClk = s.ledClk := rfl
@[simp] theorem palWrite_ledData (i : Nat) (e : Color) (s : State) : (palWrite i e s).ledData = s.ledData := rfl
@[simp] theorem palWrite_ledSel (i : Nat) (e : Color) (s : State) : (palWrite i e s).ledSel = s.ledSel := rfl
@[simp] theorem palWrite_host (i : Nat) (e : Color) (s : State) : (palWrite i e s).host = s.host := rfl
@[simp] theorem palWrite_wire (i : Nat) (e : Color) (s : State) : (palWrite i e s).wire = s.wire := rfl
@[simp] theorem palWrite_responses (i : Nat) (e : Color) (s : State) : (palWrite i e s).responses = s.responses := rfl
@[simp] theorem fb1Write_cfg (p : Nat) (v : Byte) (s : State) : (fb1Write p v s).cfg = s.cfg := rfl
@[simp] theorem fb1Write_pal (p : Nat) (v : Byte) (s : State) : (fb1Write p v s).pal = s.pal := rfl
@[simp] theorem fb1Write_fb1 (p : Nat) (v : Byte) (s : State) : (fb1Write p v s).fb1 = Memory.write 0 p v s.fb1 := rfl
@[simp] theorem fb1Write_fbm (p : Nat) (v : Byte) (s : State) : (fb1Write p v s).fbm = s.fbm := rfl
@[simp] theorem fb1Write_fault (p : Nat) (v : Byte) (s : State) : (fb1Write p v s).fault = s.fault := rfl
@[simp] theorem fb1Write_busy (p : Nat) (v : Byte) (s : State) : (fb1Write p v s).busy = s.busy := rfl
@[simp] theorem fb1Write_rspValid (p : Nat) (v : Byte) (s : State) : (fb1Write p v s).rspValid = s.rspValid := rfl
@[simp] theorem fb1Write_rspCode (p : Nat) (v : Byte) (s : State) : (fb1Write p v s).rspCode = s.rspCode := rfl
@[simp] theorem fb1Write_rspData (p : Nat) (v : Byte) (s : State) : (fb1Write p v s).rspData = s.rspData := rfl
@[simp] theorem fb1Write_cmdrOp (p : Nat) (v : Byte) (s : State) : (fb1Write p v s).cmdrOp = s.cmdrOp := rfl
@[simp] theorem fb1Write_cmdrArg (p : Nat) (v : Byte) (s : State) : (fb1Write p v s).cmdrArg = s.cmdrArg := rfl
@[simp] theorem fb1Write_stage (p : Nat) (v : Byte) (s : State) : (fb1Write p v s).stage = s.stage := rfl
@[simp] theorem fb1Write_pos (p : Nat) (v : Byte) (s : State) : (fb1Write p v s).pos = s.pos := rfl
@[simp] theorem fb1Write_comp (p : Nat) (v : Byte) (s : State) : (fb1Write p v s).comp = s.comp := rfl
@[simp] theorem fb1Write_lcnt (p : Nat) (v : Byte) (s : State) : (fb1Write p v s).lcnt = s.lcnt := rfl
@[simp] theorem fb1Write_act (p : Nat) (v : Byte) (s : State) : (fb1Write p v s).act = s.act := rfl
@[simp] theorem fb1Write_shift (p : Nat) (v : Byte) (s : State) : (fb1Write p v s).shift = s.shift := rfl
@[simp] theorem fb1Write_bitn (p : Nat) (v : Byte) (s : State) : (fb1Write p v s).bitn = s.bitn := rfl
@[simp] theorem fb1Write_phase (p : Nat) (v : Byte) (s : State) : (fb1Write p v s).phase = s.phase := rfl
@[simp] theorem fb1Write_ledClk (p : Nat) (v : Byte) (s : State) : (fb1Write p v s).ledClk = s.ledClk := rfl
@[simp] theorem fb1Write_ledData (p : Nat) (v : Byte) (s : State) : (fb1Write p v s).ledData = s.ledData := rfl
@[simp] theorem fb1Write_ledSel (p : Nat) (v : Byte) (s : State) : (fb1Write p v s).ledSel = s.ledSel := rfl
@[simp] theorem fb1Write_host (p : Nat) (v : Byte) (s : State) : (fb1Write p v s).host = s.host := rfl
@[simp] theorem fb1Write_wire (p : Nat) (v : Byte) (s : State) : (fb1Write p v s).wire = s.wire := rfl
@[simp] theorem fb1Write_responses (p : Nat) (v : Byte) (s : State) : (fb1Write p v s).responses = s.responses := rfl
@[simp] theorem fb1FillAll_cfg (v : Byte) (s : State) : (fb1FillAll v s).cfg = s.cfg := rfl
@[simp] theorem fb1FillAll_pal (v : Byte) (s : State) : (fb1FillAll v s).pal = s.pal := rfl
@[simp] theorem fb1FillAll_fb1 (v : Byte) (s : State) : (fb1FillAll v s).fb1 = Memory.fill 0 s.cfg.N1 v := rfl
@[simp] theorem fb1FillAll_fbm (v : Byte) (s : State) : (fb1FillAll v s).fbm = s.fbm := rfl
@[simp] theorem fb1FillAll_fault (v : Byte) (s : State) : (fb1FillAll v s).fault = s.fault := rfl
@[simp] theorem fb1FillAll_busy (v : Byte) (s : State) : (fb1FillAll v s).busy = s.busy := rfl
@[simp] theorem fb1FillAll_rspValid (v : Byte) (s : State) : (fb1FillAll v s).rspValid = s.rspValid := rfl
@[simp] theorem fb1FillAll_rspCode (v : Byte) (s : State) : (fb1FillAll v s).rspCode = s.rspCode := rfl
@[simp] theorem fb1FillAll_rspData (v : Byte) (s : State) : (fb1FillAll v s).rspData = s.rspData := rfl
@[simp] theorem fb1FillAll_cmdrOp (v : Byte) (s : State) : (fb1FillAll v s).cmdrOp = s.cmdrOp := rfl
@[simp] theorem fb1FillAll_cmdrArg (v : Byte) (s : State) : (fb1FillAll v s).cmdrArg = s.cmdrArg := rfl
@[simp] theorem fb1FillAll_stage (v : Byte) (s : State) : (fb1FillAll v s).stage = s.stage := rfl
@[simp] theorem fb1FillAll_pos (v : Byte) (s : State) : (fb1FillAll v s).pos = s.pos := rfl
@[simp] theorem fb1FillAll_comp (v : Byte) (s : State) : (fb1FillAll v s).comp = s.comp := rfl
@[simp] theorem fb1FillAll_lcnt (v : Byte) (s : State) : (fb1FillAll v s).lcnt = s.lcnt := rfl
@[simp] theorem fb1FillAll_act (v : Byte) (s : State) : (fb1FillAll v s).act = s.act := rfl
@[simp] theorem fb1FillAll_shift (v : Byte) (s : State) : (fb1FillAll v s).shift = s.shift := rfl
@[simp] theorem fb1FillAll_bitn (v : Byte) (s : State) : (fb1FillAll v s).bitn = s.bitn := rfl
@[simp] theorem fb1FillAll_phase (v : Byte) (s : State) : (fb1FillAll v s).phase = s.phase := rfl
@[simp] theorem fb1FillAll_ledClk (v : Byte) (s : State) : (fb1FillAll v s).ledClk = s.ledClk := rfl
@[simp] theorem fb1FillAll_ledData (v : Byte) (s : State) : (fb1FillAll v s).ledData = s.ledData := rfl
@[simp] theorem fb1FillAll_ledSel (v : Byte) (s : State) : (fb1FillAll v s).ledSel = s.ledSel := rfl
@[simp] theorem fb1FillAll_host (v : Byte) (s : State) : (fb1FillAll v s).host = s.host := rfl
@[simp] theorem fb1FillAll_wire (v : Byte) (s : State) : (fb1FillAll v s).wire = s.wire := rfl
@[simp] theorem fb1FillAll_responses (v : Byte) (s : State) : (fb1FillAll v s).responses = s.responses := rfl
@[simp] theorem fbmWrite_cfg (k : Fin 8) (p : Nat) (v : Byte) (s : State) : (fbmWrite k p v s).cfg = s.cfg := rfl
@[simp] theorem fbmWrite_pal (k : Fin 8) (p : Nat) (v : Byte) (s : State) : (fbmWrite k p v s).pal = s.pal := rfl
@[simp] theorem fbmWrite_fb1 (k : Fin 8) (p : Nat) (v : Byte) (s : State) : (fbmWrite k p v s).fb1 = s.fb1 := rfl
@[simp] theorem fbmWrite_fbm (k : Fin 8) (p : Nat) (v : Byte) (s : State) :
    (fbmWrite k p v s).fbm = s.fbm.set k (Memory.write 0 p v (s.fbm.get k)) := rfl
@[simp] theorem fbmWrite_fault (k : Fin 8) (p : Nat) (v : Byte) (s : State) : (fbmWrite k p v s).fault = s.fault := rfl
@[simp] theorem fbmWrite_busy (k : Fin 8) (p : Nat) (v : Byte) (s : State) : (fbmWrite k p v s).busy = s.busy := rfl
@[simp] theorem fbmWrite_rspValid (k : Fin 8) (p : Nat) (v : Byte) (s : State) : (fbmWrite k p v s).rspValid = s.rspValid := rfl
@[simp] theorem fbmWrite_rspCode (k : Fin 8) (p : Nat) (v : Byte) (s : State) : (fbmWrite k p v s).rspCode = s.rspCode := rfl
@[simp] theorem fbmWrite_rspData (k : Fin 8) (p : Nat) (v : Byte) (s : State) : (fbmWrite k p v s).rspData = s.rspData := rfl
@[simp] theorem fbmWrite_cmdrOp (k : Fin 8) (p : Nat) (v : Byte) (s : State) : (fbmWrite k p v s).cmdrOp = s.cmdrOp := rfl
@[simp] theorem fbmWrite_cmdrArg (k : Fin 8) (p : Nat) (v : Byte) (s : State) : (fbmWrite k p v s).cmdrArg = s.cmdrArg := rfl
@[simp] theorem fbmWrite_stage (k : Fin 8) (p : Nat) (v : Byte) (s : State) : (fbmWrite k p v s).stage = s.stage := rfl
@[simp] theorem fbmWrite_pos (k : Fin 8) (p : Nat) (v : Byte) (s : State) : (fbmWrite k p v s).pos = s.pos := rfl
@[simp] theorem fbmWrite_comp (k : Fin 8) (p : Nat) (v : Byte) (s : State) : (fbmWrite k p v s).comp = s.comp := rfl
@[simp] theorem fbmWrite_lcnt (k : Fin 8) (p : Nat) (v : Byte) (s : State) : (fbmWrite k p v s).lcnt = s.lcnt := rfl
@[simp] theorem fbmWrite_act (k : Fin 8) (p : Nat) (v : Byte) (s : State) : (fbmWrite k p v s).act = s.act := rfl
@[simp] theorem fbmWrite_shift (k : Fin 8) (p : Nat) (v : Byte) (s : State) : (fbmWrite k p v s).shift = s.shift := rfl
@[simp] theorem fbmWrite_bitn (k : Fin 8) (p : Nat) (v : Byte) (s : State) : (fbmWrite k p v s).bitn = s.bitn := rfl
@[simp] theorem fbmWrite_phase (k : Fin 8) (p : Nat) (v : Byte) (s : State) : (fbmWrite k p v s).phase = s.phase := rfl
@[simp] theorem fbmWrite_ledClk (k : Fin 8) (p : Nat) (v : Byte) (s : State) : (fbmWrite k p v s).ledClk = s.ledClk := rfl
@[simp] theorem fbmWrite_ledData (k : Fin 8) (p : Nat) (v : Byte) (s : State) : (fbmWrite k p v s).ledData = s.ledData := rfl
@[simp] theorem fbmWrite_ledSel (k : Fin 8) (p : Nat) (v : Byte) (s : State) : (fbmWrite k p v s).ledSel = s.ledSel := rfl
@[simp] theorem fbmWrite_host (k : Fin 8) (p : Nat) (v : Byte) (s : State) : (fbmWrite k p v s).host = s.host := rfl
@[simp] theorem fbmWrite_wire (k : Fin 8) (p : Nat) (v : Byte) (s : State) : (fbmWrite k p v s).wire = s.wire := rfl
@[simp] theorem fbmWrite_responses (k : Fin 8) (p : Nat) (v : Byte) (s : State) : (fbmWrite k p v s).responses = s.responses := rfl
@[simp] theorem fbmFillAll_cfg (v : Byte) (s : State) : (fbmFillAll v s).cfg = s.cfg := rfl
@[simp] theorem fbmFillAll_pal (v : Byte) (s : State) : (fbmFillAll v s).pal = s.pal := rfl
@[simp] theorem fbmFillAll_fb1 (v : Byte) (s : State) : (fbmFillAll v s).fb1 = s.fb1 := rfl
@[simp] theorem fbmFillAll_fbm (v : Byte) (s : State) :
    (fbmFillAll v s).fbm = Lanes.ofFn fun _ => Memory.fill 0 s.cfg.NM v := rfl
@[simp] theorem fbmFillAll_fault (v : Byte) (s : State) : (fbmFillAll v s).fault = s.fault := rfl
@[simp] theorem fbmFillAll_busy (v : Byte) (s : State) : (fbmFillAll v s).busy = s.busy := rfl
@[simp] theorem fbmFillAll_rspValid (v : Byte) (s : State) : (fbmFillAll v s).rspValid = s.rspValid := rfl
@[simp] theorem fbmFillAll_rspCode (v : Byte) (s : State) : (fbmFillAll v s).rspCode = s.rspCode := rfl
@[simp] theorem fbmFillAll_rspData (v : Byte) (s : State) : (fbmFillAll v s).rspData = s.rspData := rfl
@[simp] theorem fbmFillAll_cmdrOp (v : Byte) (s : State) : (fbmFillAll v s).cmdrOp = s.cmdrOp := rfl
@[simp] theorem fbmFillAll_cmdrArg (v : Byte) (s : State) : (fbmFillAll v s).cmdrArg = s.cmdrArg := rfl
@[simp] theorem fbmFillAll_stage (v : Byte) (s : State) : (fbmFillAll v s).stage = s.stage := rfl
@[simp] theorem fbmFillAll_pos (v : Byte) (s : State) : (fbmFillAll v s).pos = s.pos := rfl
@[simp] theorem fbmFillAll_comp (v : Byte) (s : State) : (fbmFillAll v s).comp = s.comp := rfl
@[simp] theorem fbmFillAll_lcnt (v : Byte) (s : State) : (fbmFillAll v s).lcnt = s.lcnt := rfl
@[simp] theorem fbmFillAll_act (v : Byte) (s : State) : (fbmFillAll v s).act = s.act := rfl
@[simp] theorem fbmFillAll_shift (v : Byte) (s : State) : (fbmFillAll v s).shift = s.shift := rfl
@[simp] theorem fbmFillAll_bitn (v : Byte) (s : State) : (fbmFillAll v s).bitn = s.bitn := rfl
@[simp] theorem fbmFillAll_phase (v : Byte) (s : State) : (fbmFillAll v s).phase = s.phase := rfl
@[simp] theorem fbmFillAll_ledClk (v : Byte) (s : State) : (fbmFillAll v s).ledClk = s.ledClk := rfl
@[simp] theorem fbmFillAll_ledData (v : Byte) (s : State) : (fbmFillAll v s).ledData = s.ledData := rfl
@[simp] theorem fbmFillAll_ledSel (v : Byte) (s : State) : (fbmFillAll v s).ledSel = s.ledSel := rfl
@[simp] theorem fbmFillAll_host (v : Byte) (s : State) : (fbmFillAll v s).host = s.host := rfl
@[simp] theorem fbmFillAll_wire (v : Byte) (s : State) : (fbmFillAll v s).wire = s.wire := rfl
@[simp] theorem fbmFillAll_responses (v : Byte) (s : State) : (fbmFillAll v s).responses = s.responses := rfl
@[simp] theorem rotatePalette_cfg (n : Nat) (s : State) : (rotatePalette n s).cfg = s.cfg := rfl
@[simp] theorem rotatePalette_pal (n : Nat) (s : State) :
    (rotatePalette n s).pal = Memory.write (paletteInitAt s.cfg (n - 1)) (n - 1) (palRead s 0)
      (shiftDown (paletteInitAt s.cfg) (n - 1) 0 s.pal) := rfl
@[simp] theorem rotatePalette_fb1 (n : Nat) (s : State) : (rotatePalette n s).fb1 = s.fb1 := rfl
@[simp] theorem rotatePalette_fbm (n : Nat) (s : State) : (rotatePalette n s).fbm = s.fbm := rfl
@[simp] theorem rotatePalette_fault (n : Nat) (s : State) : (rotatePalette n s).fault = s.fault := rfl
@[simp] theorem rotatePalette_busy (n : Nat) (s : State) : (rotatePalette n s).busy = s.busy := rfl
@[simp] theorem rotatePalette_rspValid (n : Nat) (s : State) : (rotatePalette n s).rspValid = s.rspValid := rfl
@[simp] theorem rotatePalette_rspCode (n : Nat) (s : State) : (rotatePalette n s).rspCode = s.rspCode := rfl
@[simp] theorem rotatePalette_rspData (n : Nat) (s : State) : (rotatePalette n s).rspData = s.rspData := rfl
@[simp] theorem rotatePalette_cmdrOp (n : Nat) (s : State) : (rotatePalette n s).cmdrOp = s.cmdrOp := rfl
@[simp] theorem rotatePalette_cmdrArg (n : Nat) (s : State) : (rotatePalette n s).cmdrArg = s.cmdrArg := rfl
@[simp] theorem rotatePalette_stage (n : Nat) (s : State) : (rotatePalette n s).stage = s.stage := rfl
@[simp] theorem rotatePalette_pos (n : Nat) (s : State) : (rotatePalette n s).pos = s.pos := rfl
@[simp] theorem rotatePalette_comp (n : Nat) (s : State) : (rotatePalette n s).comp = s.comp := rfl
@[simp] theorem rotatePalette_lcnt (n : Nat) (s : State) : (rotatePalette n s).lcnt = s.lcnt := rfl
@[simp] theorem rotatePalette_act (n : Nat) (s : State) : (rotatePalette n s).act = s.act := rfl
@[simp] theorem rotatePalette_shift (n : Nat) (s : State) : (rotatePalette n s).shift = s.shift := rfl
@[simp] theorem rotatePalette_bitn (n : Nat) (s : State) : (rotatePalette n s).bitn = s.bitn := rfl
@[simp] theorem rotatePalette_phase (n : Nat) (s : State) : (rotatePalette n s).phase = s.phase := rfl
@[simp] theorem rotatePalette_ledClk (n : Nat) (s : State) : (rotatePalette n s).ledClk = s.ledClk := rfl
@[simp] theorem rotatePalette_ledData (n : Nat) (s : State) : (rotatePalette n s).ledData = s.ledData := rfl
@[simp] theorem rotatePalette_ledSel (n : Nat) (s : State) : (rotatePalette n s).ledSel = s.ledSel := rfl
@[simp] theorem rotatePalette_host (n : Nat) (s : State) : (rotatePalette n s).host = s.host := rfl
@[simp] theorem rotatePalette_wire (n : Nat) (s : State) : (rotatePalette n s).wire = s.wire := rfl
@[simp] theorem rotatePalette_responses (n : Nat) (s : State) : (rotatePalette n s).responses = s.responses := rfl
@[simp] theorem accept_cfg (op : Byte) (arg : BitVec 32) (s : State) : (accept op arg s).cfg = s.cfg := rfl
@[simp] theorem accept_pal (op : Byte) (arg : BitVec 32) (s : State) : (accept op arg s).pal = s.pal := rfl
@[simp] theorem accept_fb1 (op : Byte) (arg : BitVec 32) (s : State) : (accept op arg s).fb1 = s.fb1 := rfl
@[simp] theorem accept_fbm (op : Byte) (arg : BitVec 32) (s : State) : (accept op arg s).fbm = s.fbm := rfl
@[simp] theorem accept_fault (op : Byte) (arg : BitVec 32) (s : State) : (accept op arg s).fault = s.fault := rfl
@[simp] theorem accept_busy (op : Byte) (arg : BitVec 32) (s : State) : (accept op arg s).busy = true := rfl
@[simp] theorem accept_rspValid (op : Byte) (arg : BitVec 32) (s : State) : (accept op arg s).rspValid = false := rfl
@[simp] theorem accept_rspCode (op : Byte) (arg : BitVec 32) (s : State) : (accept op arg s).rspCode = s.rspCode := rfl
@[simp] theorem accept_rspData (op : Byte) (arg : BitVec 32) (s : State) : (accept op arg s).rspData = s.rspData := rfl
@[simp] theorem accept_cmdrOp (op : Byte) (arg : BitVec 32) (s : State) : (accept op arg s).cmdrOp = op := rfl
@[simp] theorem accept_cmdrArg (op : Byte) (arg : BitVec 32) (s : State) : (accept op arg s).cmdrArg = arg := rfl
@[simp] theorem accept_stage (op : Byte) (arg : BitVec 32) (s : State) : (accept op arg s).stage = s.stage := rfl
@[simp] theorem accept_pos (op : Byte) (arg : BitVec 32) (s : State) : (accept op arg s).pos = s.pos := rfl
@[simp] theorem accept_comp (op : Byte) (arg : BitVec 32) (s : State) : (accept op arg s).comp = s.comp := rfl
@[simp] theorem accept_lcnt (op : Byte) (arg : BitVec 32) (s : State) : (accept op arg s).lcnt = s.lcnt := rfl
@[simp] theorem accept_act (op : Byte) (arg : BitVec 32) (s : State) : (accept op arg s).act = s.act := rfl
@[simp] theorem accept_shift (op : Byte) (arg : BitVec 32) (s : State) : (accept op arg s).shift = s.shift := rfl
@[simp] theorem accept_bitn (op : Byte) (arg : BitVec 32) (s : State) : (accept op arg s).bitn = s.bitn := rfl
@[simp] theorem accept_phase (op : Byte) (arg : BitVec 32) (s : State) : (accept op arg s).phase = s.phase := rfl
@[simp] theorem accept_ledClk (op : Byte) (arg : BitVec 32) (s : State) : (accept op arg s).ledClk = s.ledClk := rfl
@[simp] theorem accept_ledData (op : Byte) (arg : BitVec 32) (s : State) : (accept op arg s).ledData = s.ledData := rfl
@[simp] theorem accept_ledSel (op : Byte) (arg : BitVec 32) (s : State) : (accept op arg s).ledSel = s.ledSel := rfl
@[simp] theorem accept_host (op : Byte) (arg : BitVec 32) (s : State) : (accept op arg s).host = s.host := rfl
@[simp] theorem accept_wire (op : Byte) (arg : BitVec 32) (s : State) : (accept op arg s).wire = s.wire := rfl
@[simp] theorem accept_responses (op : Byte) (arg : BitVec 32) (s : State) : (accept op arg s).responses = s.responses := rfl
@[simp] theorem respond_cfg (d : BitVec 32) (s : State) : (respond d s).cfg = s.cfg := rfl
@[simp] theorem respond_pal (d : BitVec 32) (s : State) : (respond d s).pal = s.pal := rfl
@[simp] theorem respond_fb1 (d : BitVec 32) (s : State) : (respond d s).fb1 = s.fb1 := rfl
@[simp] theorem respond_fbm (d : BitVec 32) (s : State) : (respond d s).fbm = s.fbm := rfl
@[simp] theorem respond_fault (d : BitVec 32) (s : State) : (respond d s).fault = s.fault := rfl
@[simp] theorem respond_busy (d : BitVec 32) (s : State) : (respond d s).busy = false := rfl
@[simp] theorem respond_rspValid (d : BitVec 32) (s : State) : (respond d s).rspValid = true := rfl
@[simp] theorem respond_rspCode (d : BitVec 32) (s : State) : (respond d s).rspCode = 0 := rfl
@[simp] theorem respond_rspData (d : BitVec 32) (s : State) : (respond d s).rspData = d := rfl
@[simp] theorem respond_cmdrOp (d : BitVec 32) (s : State) : (respond d s).cmdrOp = s.cmdrOp := rfl
@[simp] theorem respond_cmdrArg (d : BitVec 32) (s : State) : (respond d s).cmdrArg = s.cmdrArg := rfl
@[simp] theorem respond_stage (d : BitVec 32) (s : State) : (respond d s).stage = s.stage := rfl
@[simp] theorem respond_pos (d : BitVec 32) (s : State) : (respond d s).pos = s.pos := rfl
@[simp] theorem respond_comp (d : BitVec 32) (s : State) : (respond d s).comp = s.comp := rfl
@[simp] theorem respond_lcnt (d : BitVec 32) (s : State) : (respond d s).lcnt = s.lcnt := rfl
@[simp] theorem respond_act (d : BitVec 32) (s : State) : (respond d s).act = s.act := rfl
@[simp] theorem respond_shift (d : BitVec 32) (s : State) : (respond d s).shift = s.shift := rfl
@[simp] theorem respond_bitn (d : BitVec 32) (s : State) : (respond d s).bitn = s.bitn := rfl
@[simp] theorem respond_phase (d : BitVec 32) (s : State) : (respond d s).phase = s.phase := rfl
@[simp] theorem respond_ledClk (d : BitVec 32) (s : State) : (respond d s).ledClk = s.ledClk := rfl
@[simp] theorem respond_ledData (d : BitVec 32) (s : State) : (respond d s).ledData = s.ledData := rfl
@[simp] theorem respond_ledSel (d : BitVec 32) (s : State) : (respond d s).ledSel = s.ledSel := rfl
@[simp] theorem respond_host (d : BitVec 32) (s : State) : (respond d s).host = s.host := rfl
@[simp] theorem respond_wire (d : BitVec 32) (s : State) : (respond d s).wire = s.wire := rfl
@[simp] theorem respond_responses (d : BitVec 32) (s : State) : (respond d s).responses = ⟨0, d⟩ :: s.responses := rfl
@[simp] theorem raise_cfg (c : FaultCause) (s : State) : (raise c s).cfg = s.cfg := rfl
@[simp] theorem raise_pal (c : FaultCause) (s : State) : (raise c s).pal = s.pal := rfl
@[simp] theorem raise_fb1 (c : FaultCause) (s : State) : (raise c s).fb1 = s.fb1 := rfl
@[simp] theorem raise_fbm (c : FaultCause) (s : State) : (raise c s).fbm = s.fbm := rfl
@[simp] theorem raise_fault (c : FaultCause) (s : State) : (raise c s).fault = setFaultBit c s.fault := rfl
@[simp] theorem raise_busy (c : FaultCause) (s : State) : (raise c s).busy = false := rfl
@[simp] theorem raise_rspValid (c : FaultCause) (s : State) : (raise c s).rspValid = true := rfl
@[simp] theorem raise_rspCode (c : FaultCause) (s : State) : (raise c s).rspCode = c.code := rfl
@[simp] theorem raise_rspData (c : FaultCause) (s : State) : (raise c s).rspData = 0 := rfl
@[simp] theorem raise_cmdrOp (c : FaultCause) (s : State) : (raise c s).cmdrOp = s.cmdrOp := rfl
@[simp] theorem raise_cmdrArg (c : FaultCause) (s : State) : (raise c s).cmdrArg = s.cmdrArg := rfl
@[simp] theorem raise_stage (c : FaultCause) (s : State) : (raise c s).stage = s.stage := rfl
@[simp] theorem raise_pos (c : FaultCause) (s : State) : (raise c s).pos = s.pos := rfl
@[simp] theorem raise_comp (c : FaultCause) (s : State) : (raise c s).comp = s.comp := rfl
@[simp] theorem raise_lcnt (c : FaultCause) (s : State) : (raise c s).lcnt = s.lcnt := rfl
@[simp] theorem raise_act (c : FaultCause) (s : State) : (raise c s).act = s.act := rfl
@[simp] theorem raise_shift (c : FaultCause) (s : State) : (raise c s).shift = s.shift := rfl
@[simp] theorem raise_bitn (c : FaultCause) (s : State) : (raise c s).bitn = s.bitn := rfl
@[simp] theorem raise_phase (c : FaultCause) (s : State) : (raise c s).phase = s.phase := rfl
@[simp] theorem raise_ledClk (c : FaultCause) (s : State) : (raise c s).ledClk = s.ledClk := rfl
@[simp] theorem raise_ledData (c : FaultCause) (s : State) : (raise c s).ledData = s.ledData := rfl
@[simp] theorem raise_ledSel (c : FaultCause) (s : State) : (raise c s).ledSel = s.ledSel := rfl
@[simp] theorem raise_host (c : FaultCause) (s : State) : (raise c s).host = s.host := rfl
@[simp] theorem raise_wire (c : FaultCause) (s : State) : (raise c s).wire = s.wire := rfl
@[simp] theorem raise_responses (c : FaultCause) (s : State) : (raise c s).responses = ⟨c.code, 0⟩ :: s.responses := rfl
@[simp] theorem recordPins_cfg (s : State) : (recordPins s).cfg = s.cfg := rfl
@[simp] theorem recordPins_pal (s : State) : (recordPins s).pal = s.pal := rfl
@[simp] theorem recordPins_fb1 (s : State) : (recordPins s).fb1 = s.fb1 := rfl
@[simp] theorem recordPins_fbm (s : State) : (recordPins s).fbm = s.fbm := rfl
@[simp] theorem recordPins_fault (s : State) : (recordPins s).fault = s.fault := rfl
@[simp] theorem recordPins_busy (s : State) : (recordPins s).busy = s.busy := rfl
@[simp] theorem recordPins_rspValid (s : State) : (recordPins s).rspValid = s.rspValid := rfl
@[simp] theorem recordPins_rspCode (s : State) : (recordPins s).rspCode = s.rspCode := rfl
@[simp] theorem recordPins_rspData (s : State) : (recordPins s).rspData = s.rspData := rfl
@[simp] theorem recordPins_cmdrOp (s : State) : (recordPins s).cmdrOp = s.cmdrOp := rfl
@[simp] theorem recordPins_cmdrArg (s : State) : (recordPins s).cmdrArg = s.cmdrArg := rfl
@[simp] theorem recordPins_stage (s : State) : (recordPins s).stage = s.stage := rfl
@[simp] theorem recordPins_pos (s : State) : (recordPins s).pos = s.pos := rfl
@[simp] theorem recordPins_comp (s : State) : (recordPins s).comp = s.comp := rfl
@[simp] theorem recordPins_lcnt (s : State) : (recordPins s).lcnt = s.lcnt := rfl
@[simp] theorem recordPins_act (s : State) : (recordPins s).act = s.act := rfl
@[simp] theorem recordPins_shift (s : State) : (recordPins s).shift = s.shift := rfl
@[simp] theorem recordPins_bitn (s : State) : (recordPins s).bitn = s.bitn := rfl
@[simp] theorem recordPins_phase (s : State) : (recordPins s).phase = s.phase := rfl
@[simp] theorem recordPins_ledClk (s : State) : (recordPins s).ledClk = s.ledClk := rfl
@[simp] theorem recordPins_ledData (s : State) : (recordPins s).ledData = s.ledData := rfl
@[simp] theorem recordPins_ledSel (s : State) : (recordPins s).ledSel = s.ledSel := rfl
@[simp] theorem recordPins_host (s : State) : (recordPins s).host = s.host := rfl
@[simp] theorem recordPins_wire (s : State) : (recordPins s).wire = pins s :: s.wire := rfl
@[simp] theorem recordPins_responses (s : State) : (recordPins s).responses = s.responses := rfl
@[simp] theorem consumeInput_cfg (s : State) : (consumeInput s).cfg = s.cfg := rfl
@[simp] theorem consumeInput_pal (s : State) : (consumeInput s).pal = s.pal := rfl
@[simp] theorem consumeInput_fb1 (s : State) : (consumeInput s).fb1 = s.fb1 := rfl
@[simp] theorem consumeInput_fbm (s : State) : (consumeInput s).fbm = s.fbm := rfl
@[simp] theorem consumeInput_fault (s : State) : (consumeInput s).fault = s.fault := rfl
@[simp] theorem consumeInput_busy (s : State) : (consumeInput s).busy = s.busy := rfl
@[simp] theorem consumeInput_rspValid (s : State) : (consumeInput s).rspValid = s.rspValid := rfl
@[simp] theorem consumeInput_rspCode (s : State) : (consumeInput s).rspCode = s.rspCode := rfl
@[simp] theorem consumeInput_rspData (s : State) : (consumeInput s).rspData = s.rspData := rfl
@[simp] theorem consumeInput_cmdrOp (s : State) : (consumeInput s).cmdrOp = s.cmdrOp := rfl
@[simp] theorem consumeInput_cmdrArg (s : State) : (consumeInput s).cmdrArg = s.cmdrArg := rfl
@[simp] theorem consumeInput_stage (s : State) : (consumeInput s).stage = s.stage := rfl
@[simp] theorem consumeInput_pos (s : State) : (consumeInput s).pos = s.pos := rfl
@[simp] theorem consumeInput_comp (s : State) : (consumeInput s).comp = s.comp := rfl
@[simp] theorem consumeInput_lcnt (s : State) : (consumeInput s).lcnt = s.lcnt := rfl
@[simp] theorem consumeInput_act (s : State) : (consumeInput s).act = s.act := rfl
@[simp] theorem consumeInput_shift (s : State) : (consumeInput s).shift = s.shift := rfl
@[simp] theorem consumeInput_bitn (s : State) : (consumeInput s).bitn = s.bitn := rfl
@[simp] theorem consumeInput_phase (s : State) : (consumeInput s).phase = s.phase := rfl
@[simp] theorem consumeInput_ledClk (s : State) : (consumeInput s).ledClk = s.ledClk := rfl
@[simp] theorem consumeInput_ledData (s : State) : (consumeInput s).ledData = s.ledData := rfl
@[simp] theorem consumeInput_ledSel (s : State) : (consumeInput s).ledSel = s.ledSel := rfl
@[simp] theorem consumeInput_host (s : State) : (consumeInput s).host = s.host.tail := rfl
@[simp] theorem consumeInput_wire (s : State) : (consumeInput s).wire = s.wire := rfl
@[simp] theorem consumeInput_responses (s : State) : (consumeInput s).responses = s.responses := rfl
@[simp] theorem resetBlock_cfg (s : State) : (resetBlock s).cfg = s.cfg := rfl
@[simp] theorem resetBlock_pal (s : State) : (resetBlock s).pal = [] := rfl
@[simp] theorem resetBlock_fb1 (s : State) : (resetBlock s).fb1 = [] := rfl
@[simp] theorem resetBlock_fbm (s : State) : (resetBlock s).fbm = ⟨[], [], [], [], [], [], [], []⟩ := rfl
@[simp] theorem resetBlock_fault (s : State) : (resetBlock s).fault = 0 := rfl
@[simp] theorem resetBlock_busy (s : State) : (resetBlock s).busy = false := rfl
@[simp] theorem resetBlock_rspValid (s : State) : (resetBlock s).rspValid = false := rfl
@[simp] theorem resetBlock_rspCode (s : State) : (resetBlock s).rspCode = 0 := rfl
@[simp] theorem resetBlock_rspData (s : State) : (resetBlock s).rspData = 0 := rfl
@[simp] theorem resetBlock_cmdrOp (s : State) : (resetBlock s).cmdrOp = 0 := rfl
@[simp] theorem resetBlock_cmdrArg (s : State) : (resetBlock s).cmdrArg = 0 := rfl
@[simp] theorem resetBlock_stage (s : State) : (resetBlock s).stage = .none := rfl
@[simp] theorem resetBlock_pos (s : State) : (resetBlock s).pos = 0 := rfl
@[simp] theorem resetBlock_comp (s : State) : (resetBlock s).comp = 0 := rfl
@[simp] theorem resetBlock_lcnt (s : State) : (resetBlock s).lcnt = 0 := rfl
@[simp] theorem resetBlock_act (s : State) : (resetBlock s).act = 0 := rfl
@[simp] theorem resetBlock_shift (s : State) : (resetBlock s).shift = ⟨0, 0, 0, 0, 0, 0, 0, 0⟩ := rfl
@[simp] theorem resetBlock_bitn (s : State) : (resetBlock s).bitn = 0 := rfl
@[simp] theorem resetBlock_phase (s : State) : (resetBlock s).phase = .idle := rfl
@[simp] theorem resetBlock_ledClk (s : State) : (resetBlock s).ledClk = false := rfl
@[simp] theorem resetBlock_ledData (s : State) : (resetBlock s).ledData = 0 := rfl
@[simp] theorem resetBlock_ledSel (s : State) : (resetBlock s).ledSel = 0 := rfl
@[simp] theorem resetBlock_host (s : State) : (resetBlock s).host = s.host := rfl
@[simp] theorem resetBlock_wire (s : State) : (resetBlock s).wire = ⟨false, 0, 0⟩ :: s.wire := rfl
@[simp] theorem resetBlock_responses (s : State) : (resetBlock s).responses = s.responses := rfl
@[simp] theorem phaseSetData_cfg (j : Nat) (s : State) : (phaseSetData j s).cfg = s.cfg := rfl
@[simp] theorem phaseSetData_pal (j : Nat) (s : State) : (phaseSetData j s).pal = s.pal := rfl
@[simp] theorem phaseSetData_fb1 (j : Nat) (s : State) : (phaseSetData j s).fb1 = s.fb1 := rfl
@[simp] theorem phaseSetData_fbm (j : Nat) (s : State) : (phaseSetData j s).fbm = s.fbm := rfl
@[simp] theorem phaseSetData_fault (j : Nat) (s : State) : (phaseSetData j s).fault = s.fault := rfl
@[simp] theorem phaseSetData_busy (j : Nat) (s : State) : (phaseSetData j s).busy = s.busy := rfl
@[simp] theorem phaseSetData_rspValid (j : Nat) (s : State) : (phaseSetData j s).rspValid = s.rspValid := rfl
@[simp] theorem phaseSetData_rspCode (j : Nat) (s : State) : (phaseSetData j s).rspCode = s.rspCode := rfl
@[simp] theorem phaseSetData_rspData (j : Nat) (s : State) : (phaseSetData j s).rspData = s.rspData := rfl
@[simp] theorem phaseSetData_cmdrOp (j : Nat) (s : State) : (phaseSetData j s).cmdrOp = s.cmdrOp := rfl
@[simp] theorem phaseSetData_cmdrArg (j : Nat) (s : State) : (phaseSetData j s).cmdrArg = s.cmdrArg := rfl
@[simp] theorem phaseSetData_stage (j : Nat) (s : State) : (phaseSetData j s).stage = s.stage := rfl
@[simp] theorem phaseSetData_pos (j : Nat) (s : State) : (phaseSetData j s).pos = s.pos := rfl
@[simp] theorem phaseSetData_comp (j : Nat) (s : State) : (phaseSetData j s).comp = s.comp := rfl
@[simp] theorem phaseSetData_lcnt (j : Nat) (s : State) : (phaseSetData j s).lcnt = s.lcnt := rfl
@[simp] theorem phaseSetData_act (j : Nat) (s : State) : (phaseSetData j s).act = s.act := rfl
@[simp] theorem phaseSetData_shift (j : Nat) (s : State) : (phaseSetData j s).shift = s.shift := rfl
@[simp] theorem phaseSetData_bitn (j : Nat) (s : State) : (phaseSetData j s).bitn = BitVec.ofNat 3 j := rfl
@[simp] theorem phaseSetData_phase (j : Nat) (s : State) : (phaseSetData j s).phase = .setData := rfl
@[simp] theorem phaseSetData_ledClk (j : Nat) (s : State) : (phaseSetData j s).ledClk = s.ledClk := rfl
@[simp] theorem phaseSetData_ledData (j : Nat) (s : State) : (phaseSetData j s).ledData = dataBits s.shift s.act j := rfl
@[simp] theorem phaseSetData_ledSel (j : Nat) (s : State) : (phaseSetData j s).ledSel = s.act := rfl
@[simp] theorem phaseSetData_host (j : Nat) (s : State) : (phaseSetData j s).host = s.host := rfl
@[simp] theorem phaseSetData_wire (j : Nat) (s : State) :
    (phaseSetData j s).wire = ⟨s.ledClk, dataBits s.shift s.act j, s.act⟩ :: s.wire := rfl
@[simp] theorem phaseSetData_responses (j : Nat) (s : State) : (phaseSetData j s).responses = s.responses := rfl
@[simp] theorem phaseClockHigh_cfg (s : State) : (phaseClockHigh s).cfg = s.cfg := rfl
@[simp] theorem phaseClockHigh_pal (s : State) : (phaseClockHigh s).pal = s.pal := rfl
@[simp] theorem phaseClockHigh_fb1 (s : State) : (phaseClockHigh s).fb1 = s.fb1 := rfl
@[simp] theorem phaseClockHigh_fbm (s : State) : (phaseClockHigh s).fbm = s.fbm := rfl
@[simp] theorem phaseClockHigh_fault (s : State) : (phaseClockHigh s).fault = s.fault := rfl
@[simp] theorem phaseClockHigh_busy (s : State) : (phaseClockHigh s).busy = s.busy := rfl
@[simp] theorem phaseClockHigh_rspValid (s : State) : (phaseClockHigh s).rspValid = s.rspValid := rfl
@[simp] theorem phaseClockHigh_rspCode (s : State) : (phaseClockHigh s).rspCode = s.rspCode := rfl
@[simp] theorem phaseClockHigh_rspData (s : State) : (phaseClockHigh s).rspData = s.rspData := rfl
@[simp] theorem phaseClockHigh_cmdrOp (s : State) : (phaseClockHigh s).cmdrOp = s.cmdrOp := rfl
@[simp] theorem phaseClockHigh_cmdrArg (s : State) : (phaseClockHigh s).cmdrArg = s.cmdrArg := rfl
@[simp] theorem phaseClockHigh_stage (s : State) : (phaseClockHigh s).stage = s.stage := rfl
@[simp] theorem phaseClockHigh_pos (s : State) : (phaseClockHigh s).pos = s.pos := rfl
@[simp] theorem phaseClockHigh_comp (s : State) : (phaseClockHigh s).comp = s.comp := rfl
@[simp] theorem phaseClockHigh_lcnt (s : State) : (phaseClockHigh s).lcnt = s.lcnt := rfl
@[simp] theorem phaseClockHigh_act (s : State) : (phaseClockHigh s).act = s.act := rfl
@[simp] theorem phaseClockHigh_shift (s : State) : (phaseClockHigh s).shift = s.shift := rfl
@[simp] theorem phaseClockHigh_bitn (s : State) : (phaseClockHigh s).bitn = s.bitn := rfl
@[simp] theorem phaseClockHigh_phase (s : State) : (phaseClockHigh s).phase = .clockHigh := rfl
@[simp] theorem phaseClockHigh_ledClk (s : State) : (phaseClockHigh s).ledClk = true := rfl
@[simp] theorem phaseClockHigh_ledData (s : State) : (phaseClockHigh s).ledData = s.ledData := rfl
@[simp] theorem phaseClockHigh_ledSel (s : State) : (phaseClockHigh s).ledSel = s.ledSel := rfl
@[simp] theorem phaseClockHigh_host (s : State) : (phaseClockHigh s).host = s.host := rfl
@[simp] theorem phaseClockHigh_wire (s : State) : (phaseClockHigh s).wire = ⟨true, s.ledData, s.ledSel⟩ :: s.wire := rfl
@[simp] theorem phaseClockHigh_responses (s : State) : (phaseClockHigh s).responses = s.responses := rfl
@[simp] theorem phaseClockLow_cfg (s : State) : (phaseClockLow s).cfg = s.cfg := rfl
@[simp] theorem phaseClockLow_pal (s : State) : (phaseClockLow s).pal = s.pal := rfl
@[simp] theorem phaseClockLow_fb1 (s : State) : (phaseClockLow s).fb1 = s.fb1 := rfl
@[simp] theorem phaseClockLow_fbm (s : State) : (phaseClockLow s).fbm = s.fbm := rfl
@[simp] theorem phaseClockLow_fault (s : State) : (phaseClockLow s).fault = s.fault := rfl
@[simp] theorem phaseClockLow_busy (s : State) : (phaseClockLow s).busy = s.busy := rfl
@[simp] theorem phaseClockLow_rspValid (s : State) : (phaseClockLow s).rspValid = s.rspValid := rfl
@[simp] theorem phaseClockLow_rspCode (s : State) : (phaseClockLow s).rspCode = s.rspCode := rfl
@[simp] theorem phaseClockLow_rspData (s : State) : (phaseClockLow s).rspData = s.rspData := rfl
@[simp] theorem phaseClockLow_cmdrOp (s : State) : (phaseClockLow s).cmdrOp = s.cmdrOp := rfl
@[simp] theorem phaseClockLow_cmdrArg (s : State) : (phaseClockLow s).cmdrArg = s.cmdrArg := rfl
@[simp] theorem phaseClockLow_stage (s : State) : (phaseClockLow s).stage = s.stage := rfl
@[simp] theorem phaseClockLow_pos (s : State) : (phaseClockLow s).pos = s.pos := rfl
@[simp] theorem phaseClockLow_comp (s : State) : (phaseClockLow s).comp = s.comp := rfl
@[simp] theorem phaseClockLow_lcnt (s : State) : (phaseClockLow s).lcnt = s.lcnt := rfl
@[simp] theorem phaseClockLow_act (s : State) : (phaseClockLow s).act = s.act := rfl
@[simp] theorem phaseClockLow_shift (s : State) : (phaseClockLow s).shift = s.shift := rfl
@[simp] theorem phaseClockLow_bitn (s : State) : (phaseClockLow s).bitn = s.bitn := rfl
@[simp] theorem phaseClockLow_phase (s : State) : (phaseClockLow s).phase = .clockLow := rfl
@[simp] theorem phaseClockLow_ledClk (s : State) : (phaseClockLow s).ledClk = false := rfl
@[simp] theorem phaseClockLow_ledData (s : State) : (phaseClockLow s).ledData = s.ledData := rfl
@[simp] theorem phaseClockLow_ledSel (s : State) : (phaseClockLow s).ledSel = s.ledSel := rfl
@[simp] theorem phaseClockLow_host (s : State) : (phaseClockLow s).host = s.host := rfl
@[simp] theorem phaseClockLow_wire (s : State) : (phaseClockLow s).wire = ⟨false, s.ledData, s.ledSel⟩ :: s.wire := rfl
@[simp] theorem phaseClockLow_responses (s : State) : (phaseClockLow s).responses = s.responses := rfl
@[simp] theorem phaseIdle_cfg (s : State) : (phaseIdle s).cfg = s.cfg := rfl
@[simp] theorem phaseIdle_pal (s : State) : (phaseIdle s).pal = s.pal := rfl
@[simp] theorem phaseIdle_fb1 (s : State) : (phaseIdle s).fb1 = s.fb1 := rfl
@[simp] theorem phaseIdle_fbm (s : State) : (phaseIdle s).fbm = s.fbm := rfl
@[simp] theorem phaseIdle_fault (s : State) : (phaseIdle s).fault = s.fault := rfl
@[simp] theorem phaseIdle_busy (s : State) : (phaseIdle s).busy = s.busy := rfl
@[simp] theorem phaseIdle_rspValid (s : State) : (phaseIdle s).rspValid = s.rspValid := rfl
@[simp] theorem phaseIdle_rspCode (s : State) : (phaseIdle s).rspCode = s.rspCode := rfl
@[simp] theorem phaseIdle_rspData (s : State) : (phaseIdle s).rspData = s.rspData := rfl
@[simp] theorem phaseIdle_cmdrOp (s : State) : (phaseIdle s).cmdrOp = s.cmdrOp := rfl
@[simp] theorem phaseIdle_cmdrArg (s : State) : (phaseIdle s).cmdrArg = s.cmdrArg := rfl
@[simp] theorem phaseIdle_stage (s : State) : (phaseIdle s).stage = s.stage := rfl
@[simp] theorem phaseIdle_pos (s : State) : (phaseIdle s).pos = s.pos := rfl
@[simp] theorem phaseIdle_comp (s : State) : (phaseIdle s).comp = s.comp := rfl
@[simp] theorem phaseIdle_lcnt (s : State) : (phaseIdle s).lcnt = s.lcnt := rfl
@[simp] theorem phaseIdle_act (s : State) : (phaseIdle s).act = s.act := rfl
@[simp] theorem phaseIdle_shift (s : State) : (phaseIdle s).shift = s.shift := rfl
@[simp] theorem phaseIdle_bitn (s : State) : (phaseIdle s).bitn = s.bitn := rfl
@[simp] theorem phaseIdle_phase (s : State) : (phaseIdle s).phase = .idle := rfl
@[simp] theorem phaseIdle_ledClk (s : State) : (phaseIdle s).ledClk = s.ledClk := rfl
@[simp] theorem phaseIdle_ledData (s : State) : (phaseIdle s).ledData = s.ledData := rfl
@[simp] theorem phaseIdle_ledSel (s : State) : (phaseIdle s).ledSel = 0 := rfl
@[simp] theorem phaseIdle_host (s : State) : (phaseIdle s).host = s.host := rfl
@[simp] theorem phaseIdle_wire (s : State) : (phaseIdle s).wire = ⟨s.ledClk, s.ledData, 0⟩ :: s.wire := rfl
@[simp] theorem phaseIdle_responses (s : State) : (phaseIdle s).responses = s.responses := rfl
@[simp] theorem renderStart_cfg (m : RenderMode) (s : State) : (renderStart m s).cfg = s.cfg := rfl
@[simp] theorem renderStart_pal (m : RenderMode) (s : State) : (renderStart m s).pal = s.pal := rfl
@[simp] theorem renderStart_fb1 (m : RenderMode) (s : State) : (renderStart m s).fb1 = s.fb1 := rfl
@[simp] theorem renderStart_fbm (m : RenderMode) (s : State) : (renderStart m s).fbm = s.fbm := rfl
@[simp] theorem renderStart_fault (m : RenderMode) (s : State) : (renderStart m s).fault = s.fault := rfl
@[simp] theorem renderStart_busy (m : RenderMode) (s : State) : (renderStart m s).busy = s.busy := rfl
@[simp] theorem renderStart_rspValid (m : RenderMode) (s : State) : (renderStart m s).rspValid = s.rspValid := rfl
@[simp] theorem renderStart_rspCode (m : RenderMode) (s : State) : (renderStart m s).rspCode = s.rspCode := rfl
@[simp] theorem renderStart_rspData (m : RenderMode) (s : State) : (renderStart m s).rspData = s.rspData := rfl
@[simp] theorem renderStart_cmdrOp (m : RenderMode) (s : State) : (renderStart m s).cmdrOp = s.cmdrOp := rfl
@[simp] theorem renderStart_cmdrArg (m : RenderMode) (s : State) : (renderStart m s).cmdrArg = s.cmdrArg := rfl
@[simp] theorem renderStart_stage (m : RenderMode) (s : State) : (renderStart m s).stage = .payload := rfl
@[simp] theorem renderStart_pos (m : RenderMode) (s : State) : (renderStart m s).pos = 0 := rfl
@[simp] theorem renderStart_comp (m : RenderMode) (s : State) : (renderStart m s).comp = 0 := rfl
@[simp] theorem renderStart_lcnt (m : RenderMode) (s : State) : (renderStart m s).lcnt = s.lcnt := rfl
@[simp] theorem renderStart_act (m : RenderMode) (s : State) : (renderStart m s).act = m.lines s.cfg := rfl
@[simp] theorem renderStart_shift (m : RenderMode) (s : State) : (renderStart m s).shift = s.shift := rfl
@[simp] theorem renderStart_bitn (m : RenderMode) (s : State) : (renderStart m s).bitn = s.bitn := rfl
@[simp] theorem renderStart_phase (m : RenderMode) (s : State) : (renderStart m s).phase = s.phase := rfl
@[simp] theorem renderStart_ledClk (m : RenderMode) (s : State) : (renderStart m s).ledClk = s.ledClk := rfl
@[simp] theorem renderStart_ledData (m : RenderMode) (s : State) : (renderStart m s).ledData = s.ledData := rfl
@[simp] theorem renderStart_ledSel (m : RenderMode) (s : State) : (renderStart m s).ledSel = s.ledSel := rfl
@[simp] theorem renderStart_host (m : RenderMode) (s : State) : (renderStart m s).host = s.host := rfl
@[simp] theorem renderStart_wire (m : RenderMode) (s : State) : (renderStart m s).wire = s.wire := rfl
@[simp] theorem renderStart_responses (m : RenderMode) (s : State) : (renderStart m s).responses = s.responses := rfl
@[simp] theorem renderFinish_cfg (s : State) : (renderFinish s).cfg = s.cfg := rfl
@[simp] theorem renderFinish_pal (s : State) : (renderFinish s).pal = s.pal := rfl
@[simp] theorem renderFinish_fb1 (s : State) : (renderFinish s).fb1 = s.fb1 := rfl
@[simp] theorem renderFinish_fbm (s : State) : (renderFinish s).fbm = s.fbm := rfl
@[simp] theorem renderFinish_fault (s : State) : (renderFinish s).fault = s.fault := rfl
@[simp] theorem renderFinish_busy (s : State) : (renderFinish s).busy = false := rfl
@[simp] theorem renderFinish_rspValid (s : State) : (renderFinish s).rspValid = true := rfl
@[simp] theorem renderFinish_rspCode (s : State) : (renderFinish s).rspCode = 0 := rfl
@[simp] theorem renderFinish_rspData (s : State) : (renderFinish s).rspData = 0 := rfl
@[simp] theorem renderFinish_cmdrOp (s : State) : (renderFinish s).cmdrOp = s.cmdrOp := rfl
@[simp] theorem renderFinish_cmdrArg (s : State) : (renderFinish s).cmdrArg = s.cmdrArg := rfl
@[simp] theorem renderFinish_stage (s : State) : (renderFinish s).stage = .none := rfl
@[simp] theorem renderFinish_pos (s : State) : (renderFinish s).pos = s.pos := rfl
@[simp] theorem renderFinish_comp (s : State) : (renderFinish s).comp = s.comp := rfl
@[simp] theorem renderFinish_lcnt (s : State) : (renderFinish s).lcnt = 0 := rfl
@[simp] theorem renderFinish_act (s : State) : (renderFinish s).act = s.act := rfl
@[simp] theorem renderFinish_shift (s : State) : (renderFinish s).shift = s.shift := rfl
@[simp] theorem renderFinish_bitn (s : State) : (renderFinish s).bitn = s.bitn := rfl
@[simp] theorem renderFinish_phase (s : State) : (renderFinish s).phase = s.phase := rfl
@[simp] theorem renderFinish_ledClk (s : State) : (renderFinish s).ledClk = s.ledClk := rfl
@[simp] theorem renderFinish_ledData (s : State) : (renderFinish s).ledData = s.ledData := rfl
@[simp] theorem renderFinish_ledSel (s : State) : (renderFinish s).ledSel = s.ledSel := rfl
@[simp] theorem renderFinish_host (s : State) : (renderFinish s).host = s.host := rfl
@[simp] theorem renderFinish_wire (s : State) : (renderFinish s).wire = s.wire := rfl
@[simp] theorem renderFinish_responses (s : State) : (renderFinish s).responses = ⟨0, 0⟩ :: s.responses := rfl

end Sys2Proof.Machine
end

