-- ==== Sys2Proof/Laws/TxSlot.lean ====
section
/-!
SUPPORT. What one slot of the bit-level primitive does, said once (spec/44_bit_transmit.md R173, R178,
R179), and what it adds to the edges and to the byte stream of each line.
-/

namespace Sys2Proof.Machine

/-- All that `TxSlot` does from its precondition `LED_CLK = 0`. -/
theorem txSlot_eq (b : Lanes Byte) (s : State) (h : s.ledClk = false) :
    txSlot b s =
      { s with
        shift := b
        bitn := 0
        phase := .idle
        ledClk := false
        ledData := dataBits b s.act 0
        ledSel := 0
        wire := (slotWire b s.act).reverse ++ s.wire } := by
  simp [txSlot, txBits, phaseIdle, phaseClockLow, phaseClockHigh, phaseSetData, recordPins, pins, slotWire,
    bitWire, h]

@[simp] theorem edges_append (u v : List Pins) : edges (u ++ v) = edges u ++ edges v := by simp [edges]

@[simp] theorem lineBits_append (k : Fin 8) (u v : List (Byte × Byte)) :
    lineBits k (u ++ v) = lineBits k u ++ lineBits k v := by simp [lineBits]

/-- The eight edges of a completed slot. -/
theorem edges_slotWire (b : Lanes Byte) (act : Byte) :
    edges (slotWire b act) = [7, 6, 5, 4, 3, 2, 1, 0].map fun j => (dataBits b act j, act) := by
  simp [edges, slotWire, bitWire]

@[simp] theorem lineBit_dataBits (b : Lanes Byte) (act : Byte) (j : Nat) (k : Fin 8) :
    lineBit (dataBits b act j) k = (lineBit act k && (b.get k).getLsbD j) := by
  simp [dataBits]

/-- A byte rebuilt from its bits. -/
theorem byte_of_bits (v : Byte) :
    BitVec.ofBoolListLE [v.getLsbD 0, v.getLsbD 1, v.getLsbD 2, v.getLsbD 3, v.getLsbD 4, v.getLsbD 5,
      v.getLsbD 6, v.getLsbD 7] = v := by
  have := byteOfLines_lineBit v
  exact this

/-- The bits a completed slot gives a selected line: its byte, most significant bit first. -/
theorem lineBits_slotWire (b : Lanes Byte) (act : Byte) (k : Fin 8) :
    lineBits k (edges (slotWire b act)) =
      if lineBit act k then [7, 6, 5, 4, 3, 2, 1, 0].map fun j => (b.get k).getLsbD j else [] := by
  rw [edges_slotWire]
  by_cases h : lineBit act k <;> simp [lineBits, h]

/-- The bits of whole bytes group into those bytes. -/
theorem groupBytes_bits_append (v : Byte) (rest : List Bool) :
    groupBytes ([7, 6, 5, 4, 3, 2, 1, 0].map (fun j => v.getLsbD j) ++ rest) = v :: groupBytes rest := by
  simp only [List.map_cons, List.map_nil, List.cons_append, List.nil_append, groupBytes]
  congr 1
  exact byte_of_bits v

/-- The byte stream of completed slots: the byte of each slot on a selected line, none on the others. -/
theorem lineBytes_slots (k : Fin 8) (act : Byte) (bs : List (Lanes Byte)) :
    lineBytes k (bs.flatMap fun b => slotWire b act) =
      if lineBit act k then bs.map fun b => b.get k else [] := by
  have bits : lineBits k (edges (bs.flatMap fun b => slotWire b act)) =
      if lineBit act k then bs.flatMap fun b => [7, 6, 5, 4, 3, 2, 1, 0].map fun j => (b.get k).getLsbD j
      else [] := by
    induction bs with
    | nil => simp [edges, lineBits]
    | cons b bs ih =>
      rw [List.flatMap_cons, edges_append, lineBits_append, ih, lineBits_slotWire]
      split_ifs <;> simp
  unfold lineBytes
  rw [bits]
  split_ifs with h
  · induction bs with
    | nil => rfl
    | cons b bs ih =>
      rw [List.flatMap_cons, groupBytes_bits_append, List.map_cons, ih]
      simp only [h, if_true]
      have bits' := bits
      rw [List.flatMap_cons, edges_append, lineBits_append, lineBits_slotWire, if_pos h, if_pos h,
        List.flatMap_cons, List.append_cancel_left_eq] at bits'
      simpa [h] using bits'
  · rfl

@[simp] theorem length_slotWire (b : Lanes Byte) (act : Byte) : (slotWire b act).length = 25 := rfl

@[simp] theorem length_edges_slotWire (b : Lanes Byte) (act : Byte) : (edges (slotWire b act)).length = 8 := by
  rw [edges_slotWire]; rfl

end Sys2Proof.Machine
end

