-- ==== Sys2Proof/Laws/Render.lean ====
section
/-!
SUPPORT. What the slots of a frame and a whole frame do, said once: which state changes, what `WIRE`
gains, and that the bytes sent are those of the memories when the render began (spec/20_memory.md R63,
spec/43_protocol_driver.md R153, R156, R159).
-/

namespace Sys2Proof.Machine

/-- The byte of a slot on one line depends on the memories, the parameters and `ACT` only. -/
theorem payloadByte_congr (m : RenderMode) {s t : State} (hc : t.cfg = s.cfg) (hp : t.pal = s.pal)
    (h1 : t.fb1 = s.fb1) (hm : t.fbm = s.fbm) (ha : t.act = s.act) (p : Nat) (comp : BitVec 2) (k : Fin 8) :
    payloadByte m t p comp k = payloadByte m s p comp k := by
  cases m <;> simp [payloadByte, frameIndex, palRead, fb1Read, fbmRead, paletteInitAt, hc, hp, h1, hm, ha]

/-- The bytes of a slot depend on its place, the memories, the parameters and `ACT` only. -/
theorem slotBytes_congr (m : RenderMode) {s t : State} (hg : t.stage = s.stage) (hq : t.pos = s.pos)
    (hk : t.comp = s.comp) (hc : t.cfg = s.cfg) (hp : t.pal = s.pal) (h1 : t.fb1 = s.fb1)
    (hm : t.fbm = s.fbm) (ha : t.act = s.act) : slotBytes m t = slotBytes m s := by
  unfold slotBytes
  rw [hg, hq, hk]
  cases s.stage <;> simp [funext (payloadByte_congr m hc hp h1 hm ha s.pos.toNat s.comp)]

theorem slotBytes_seekSlot_congr (m : RenderMode) (sl : Slot) {s t : State} (hc : t.cfg = s.cfg)
    (hp : t.pal = s.pal) (h1 : t.fb1 = s.fb1) (hm : t.fbm = s.fbm) (ha : t.act = s.act) :
    slotBytes m (seekSlot sl t) = slotBytes m (seekSlot sl s) := by
  cases sl with
  | colour p c => exact slotBytes_congr m rfl rfl rfl hc hp h1 hm ha
  | latch n => simp [slotBytes, seekSlot]

@[simp] theorem seekSlot_ledClk (sl : Slot) (s : State) : (seekSlot sl s).ledClk = s.ledClk := by
  cases sl <;> rfl

/-- All that one slot does, the sequencer registers `STAGE`, `POS`, `COMP`, `LCNT` apart. -/
structure SlotSent (s t : State) (w : List Pins) : Prop where
  cfg : t.cfg = s.cfg
  pal : t.pal = s.pal
  fb1 : t.fb1 = s.fb1
  fbm : t.fbm = s.fbm
  act : t.act = s.act
  fault : t.fault = s.fault
  busy : t.busy = s.busy
  rspValid : t.rspValid = s.rspValid
  rspCode : t.rspCode = s.rspCode
  rspData : t.rspData = s.rspData
  cmdrOp : t.cmdrOp = s.cmdrOp
  cmdrArg : t.cmdrArg = s.cmdrArg
  host : t.host = s.host
  responses : t.responses = s.responses
  clk : t.ledClk = false
  wire : t.wire = w.reverse ++ s.wire

theorem sendSlot_sent (m : RenderMode) (s : State) (sl : Slot) (h : s.ledClk = false) :
    SlotSent s (sendSlot m s sl) (slotWire (slotBytes m (seekSlot sl s)) s.act) := by
  unfold sendSlot
  rw [txSlot_eq _ _ (by simpa using h)]
  cases sl <;> constructor <;> rfl

theorem foldl_sendSlot_sent (m : RenderMode) (l : List Slot) (s : State) (h : s.ledClk = false) :
    SlotSent s (l.foldl (sendSlot m) s)
      (l.flatMap fun sl => slotWire (slotBytes m (seekSlot sl s)) s.act) := by
  induction l generalizing s with
  | nil => constructor <;> simp [h]
  | cons sl l ih =>
    have h1 := sendSlot_sent m s sl h
    have h2 := ih (sendSlot m s sl) h1.clk
    rw [List.foldl_cons]
    have hb : ∀ sl', slotBytes m (seekSlot sl' (sendSlot m s sl)) = slotBytes m (seekSlot sl' s) :=
      fun sl' => slotBytes_seekSlot_congr m sl' h1.cfg h1.pal h1.fb1 h1.fbm h1.act
    constructor
    · rw [h2.cfg, h1.cfg]
    · rw [h2.pal, h1.pal]
    · rw [h2.fb1, h1.fb1]
    · rw [h2.fbm, h1.fbm]
    · rw [h2.act, h1.act]
    · rw [h2.fault, h1.fault]
    · rw [h2.busy, h1.busy]
    · rw [h2.rspValid, h1.rspValid]
    · rw [h2.rspCode, h1.rspCode]
    · rw [h2.rspData, h1.rspData]
    · rw [h2.cmdrOp, h1.cmdrOp]
    · rw [h2.cmdrArg, h1.cmdrArg]
    · rw [h2.host, h1.host]
    · rw [h2.responses, h1.responses]
    · exact h2.clk
    · rw [h2.wire, h1.wire, h1.act]
      simp [hb]

/-- All that a whole frame does. -/
theorem sendFrame_sent (m : RenderMode) (s : State) (h : s.ledClk = false) :
    SlotSent (renderStart m s) ((frameSlots m s.cfg).foldl (sendSlot m) (renderStart m s)) (frameWire m s) :=
  foldl_sendSlot_sent m _ _ (by simpa using h)

/-- A frame has at least one latch byte. -/
theorem latchCount_pos (m : RenderMode) (c : Config) : 1 ≤ m.latchCount c := by
  have h1 := c.N1_range
  have h2 := c.NM_range
  cases m <;> simp only [RenderMode.latchCount, RenderMode.length, latchBytes] <;> omega

theorem latchCount_le (m : RenderMode) (c : Config) : m.latchCount c ≤ 2048 := by
  have h1 := c.N1_range
  have h2 := c.NM_range
  cases m <;> simp only [RenderMode.latchCount, RenderMode.length, latchBytes] <;> omega

theorem length_range (m : RenderMode) (c : Config) : 1 ≤ m.length c ∧ m.length c ≤ 65535 := by
  have h1 := c.N1_range
  have h2 := c.NM_range
  cases m <;> simp only [RenderMode.length] <;> omega

@[simp] theorem length_latchSlots (n : Nat) : (latchSlots n).length = n := by
  induction n with
  | zero => rfl
  | succ n ih => simp [latchSlots, ih]

/-- The number of slots of a frame (spec/43_protocol_driver.md R155). -/
theorem length_frameSlots (m : RenderMode) (c : Config) :
    (frameSlots m c).length = 3 * m.length c + m.latchCount c := by
  have : ∀ n, ((List.range n).flatMap positionSlots).length = 3 * n := by
    intro n
    induction n with
    | zero => rfl
    | succ n ih => rw [List.range_succ, List.flatMap_append, List.length_append, ih]; simp [positionSlots]; omega
  rw [frameSlots, List.length_append, this, length_latchSlots]

end Sys2Proof.Machine
end

