-- ==== Sys2Proof/Laws/Exec.lean ====
section
/-!
SUPPORT. The meaning of every command in one normal form: a command whose operands break a precondition
raises the expected fault; every other command that is no render answers a value and changes at most
the memory of its family; a render sends its frame, or stops the model on an index outside the palette.
-/

namespace Sys2Proof.Machine

/-- What a command that is no render stores, when it does not fault. -/
def memoryEffect : Instr → State → State
  | .palSetc idx r g b, s => palWrite idx.toNat ⟨g, r, b⟩ s
  | .palSetp idx rgb, s => palWrite idx.toNat ⟨packedG rgb, packedR rgb, packedB rgb⟩ s
  | .palSethsv idx h sat v, s => palWrite idx.toNat (hsvToColor s.cfg h sat v) s
  | .palCycle num, s => rotatePalette num.toNat s
  | .fb1Fill val, s => fb1FillAll val s
  | .fb1Set pos val, s => fb1Write pos.toNat val s
  | .fbmFill val, s => fbmFillAll val s
  | .fbmSet strip pos val, s => fbmWrite (stripOf strip) pos.toNat val s
  | .fbmSetxy x y val, s => fbmWrite (pixelStrip x y) (pixelPos x y) val s
  | _, s => s

/-- What a command answers, when it does not fault. -/
def answerOf : Instr → State → BitVec 32
  | .palGet idx, s => colorData (palRead s idx.toNat)
  | .fbmGet strip pos, s => indexData (fbmRead s (stripOf strip) pos.toNat)
  | .fbmGetxy x y, s => indexData (fbmRead s (pixelStrip x y) (pixelPos x y))
  | .xfRowcol x y, _ => placeData (rowcol x.toNat y.toNat).1 (rowcol x.toNat y.toNat).2
  | .xfLatchlen n, _ => BitVec.ofNat 32 (latchBytes n.toNat)
  | _, _ => 0

/-- The normal form of every command that is no render. -/
theorem exec_eq_of_not_render (i : Instr) (s : State) (hs : i ≠ .renderS) (hm : i ≠ .renderM) :
    exec i s =
      match expectedFault s.cfg i with
      | some c => .next (raise c s)
      | none => .next (respond (answerOf i s) (memoryEffect i s)) := by
  cases i <;> first | exact absurd rfl hs | exact absurd rfl hm | skip
  all_goals
    simp only [exec, execPalSetc, execPalSetp, execPalSethsv, execPalCycle, execPalGet, execFb1Fill,
      execFb1Set, execFbmFill, execFbmSet, execFbmGet, execFbmSetxy, execFbmGetxy, execXfRowcol,
      execXfLatchlen, setColor, palIndexOk, cycleCountOk, fb1PosOk, fbmPosOk, geometryOk, coordinateOk,
      decide_eq_true_eq, Bool.not_eq_true', decide_eq_false_iff_not, expectedFault, answerOf, memoryEffect]
  all_goals split_ifs <;> first | rfl | omega

theorem exec_of_fault {i : Instr} {s : State} {c : FaultCause} (h : expectedFault s.cfg i = some c) :
    exec i s = .next (raise c s) := by
  have hs : i ≠ .renderS := by rintro rfl; cases h
  have hm : i ≠ .renderM := by rintro rfl; cases h
  rw [exec_eq_of_not_render i s hs hm, h]

theorem exec_of_no_fault {i : Instr} {s : State} (h : expectedFault s.cfg i = none) (hs : i ≠ .renderS)
    (hm : i ≠ .renderM) : exec i s = .next (respond (answerOf i s) (memoryEffect i s)) := by
  rw [exec_eq_of_not_render i s hs hm, h]

/-- A render sends its frame when every index it reads is in the palette. -/
theorem renderFrame_eq (m : RenderMode) (s : State) :
    renderFrame m s = if frameReadable m s then .next (sendFrame m s) else .fault .paletteIndexAtRender := rfl

theorem frameReadable_iff (m : RenderMode) (s : State) :
    frameReadable m s = true ↔
      ∀ p < m.length s.cfg, ∀ k, lineBit (m.lines s.cfg) k = true → (frameIndex m s k p).toNat < s.cfg.P := by
  simp only [frameReadable, positionReadable, palIndexOk, List.all_eq_true, List.mem_range, List.mem_finRange,
    forall_const, Bool.or_eq_true, Bool.not_eq_true', decide_eq_true_eq]
  exact forall₂_congr fun p _ => forall_congr' fun k => by cases lineBit (m.lines s.cfg) k <;> simp

/-- Whether a frame is readable depends on the parameters and the frame buffers only. -/
theorem frameReadable_congr (m : RenderMode) {s t : State} (hc : t.cfg = s.cfg) (h1 : t.fb1 = s.fb1)
    (hm : t.fbm = s.fbm) : frameReadable m t = frameReadable m s := by
  have : ∀ act, positionReadable m act t = positionReadable m act s := by
    intro act
    funext p
    cases m <;> simp [positionReadable, frameIndex, fb1Read, fbmRead, hc, h1, hm]
  simp [frameReadable, this, hc]

/-- Everything a command can do: fault, answer with at most its memory effect, or send a frame. -/
theorem exec_cases {i : Instr} {s t : State} (h : exec i s = .next t) :
    (∃ c, expectedFault s.cfg i = some c ∧ t = raise c s) ∨
    (expectedFault s.cfg i = none ∧ i ≠ .renderS ∧ i ≠ .renderM ∧
      t = respond (answerOf i s) (memoryEffect i s)) ∨
    (∃ m, ((m = .single ∧ i = .renderS) ∨ (m = .multi ∧ i = .renderM)) ∧ frameReadable m s = true ∧
      t = sendFrame m s) := by
  have render : ∀ m, renderFrame m s = .next t → frameReadable m s = true ∧ t = sendFrame m s := by
    intro m h
    rw [renderFrame_eq] at h
    split_ifs at h with hr
    exact ⟨hr, by injection h with h; exact h.symm⟩
  by_cases hs : i = .renderS
  · subst hs
    exact .inr (.inr ⟨.single, .inl ⟨rfl, rfl⟩, render .single h⟩)
  by_cases hm : i = .renderM
  · subst hm
    exact .inr (.inr ⟨.multi, .inr ⟨rfl, rfl⟩, render .multi h⟩)
  cases hf : expectedFault s.cfg i with
  | some c =>
    rw [exec_of_fault hf] at h
    exact .inl ⟨c, rfl, by injection h with h; exact h.symm⟩
  | none =>
    rw [exec_of_no_fault hf hs hm] at h
    exact .inr (.inl ⟨rfl, hs, hm, by injection h with h; exact h.symm⟩)

/-- What the memory effect of a command leaves: all but the memories. -/
theorem memoryEffect_outside (i : Instr) (s : State) :
    SameOutside s (memoryEffect i s) ∧ (memoryEffect i s).fault = s.fault ∧
      (memoryEffect i s).responses = s.responses := by
  cases i <;> exact ⟨⟨⟨rfl, rfl, rfl, rfl⟩, ⟨rfl, rfl, rfl, rfl, rfl, rfl, rfl, rfl⟩, ⟨rfl, rfl, rfl, rfl⟩⟩, rfl, rfl⟩

@[simp] theorem memoryEffect_cfg (i : Instr) (s : State) : (memoryEffect i s).cfg = s.cfg :=
  (memoryEffect_outside i s).1.setting.cfg

/-- The end of a command: `respond` completes it. -/
theorem respond_completed (d : BitVec 32) (s u : State) (hf : u.fault = s.fault)
    (hr : u.responses = s.responses) : Completed d s (respond d u) :=
  ⟨rfl, rfl, rfl, rfl, hf, by simp [hr]⟩

/-- `respond` leaves everything but the response and `BUSY`. -/
theorem respond_outside (d : BitVec 32) {s u : State} (h : SameOutside s u) : SameOutside s (respond d u) :=
  ⟨⟨h.1.1, h.1.2, h.1.3, h.1.4⟩, ⟨h.2.1, h.2.2, h.2.3, h.2.4, h.2.5, h.2.6, h.2.7, h.2.8⟩,
    ⟨h.3.1, h.3.2, h.3.3, h.3.4⟩⟩

theorem sameOutside_refl (s : State) : SameOutside s s :=
  ⟨⟨rfl, rfl, rfl, rfl⟩, ⟨rfl, rfl, rfl, rfl, rfl, rfl, rfl, rfl⟩, ⟨rfl, rfl, rfl, rfl⟩⟩

/-- Setting a sticky bit sets that bit and no other. -/
theorem getLsbD_setFaultBit (c : FaultCause) (f : Byte) (j : Nat) :
    (setFaultBit c f).getLsbD j = (f.getLsbD j || decide (j = c.bit)) := by
  have : (1#8 <<< c.bit).getLsbD j = decide (j = c.bit) := by
    by_cases hj : j < 8
    · have : j = 0 ∨ j = 1 ∨ j = 2 ∨ j = 3 ∨ j = 4 ∨ j = 5 ∨ j = 6 ∨ j = 7 := by omega
      rcases this with rfl | rfl | rfl | rfl | rfl | rfl | rfl | rfl <;> cases c <;> rfl
    · rw [BitVec.getLsbD_of_ge _ _ (by omega)]
      symm
      rw [decide_eq_false_iff_not]
      cases c <;> simp only [FaultCause.bit] <;> omega
  rw [setFaultBit, BitVec.getLsbD_or, this]

/-- The fault entry: the response, the sticky bit, and nothing else. -/
theorem raise_faultedOnly (c : FaultCause) (s : State) : FaultedOnly c s (raise c s) :=
  ⟨⟨rfl, rfl, rfl, rfl, fun j => getLsbD_setFaultBit c s.fault j, rfl⟩,
    ⟨fun _ => rfl, fun _ => rfl, fun _ _ => rfl⟩,
    ⟨⟨rfl, rfl, rfl, rfl⟩, ⟨rfl, rfl, rfl, rfl, rfl, rfl, rfl, rfl⟩, ⟨rfl, rfl, rfl, rfl⟩⟩⟩

/-- A command whose operands break a precondition faults and has no other effect. -/
theorem exec_faults {i : Instr} {s : State} {c : FaultCause} (h : expectedFault s.cfg i = some c) :
    ∃ t, exec i s = .next t ∧ FaultedOnly c s t :=
  ⟨_, exec_of_fault h, raise_faultedOnly _ _⟩

/-- A command that is no render and does not fault completes and touches nothing but its memory. -/
theorem exec_completes {i : Instr} {s : State} (h : expectedFault s.cfg i = none) (hs : i ≠ .renderS)
    (hm : i ≠ .renderM) :
    exec i s = .next (respond (answerOf i s) (memoryEffect i s)) ∧
      Completed (answerOf i s) s (respond (answerOf i s) (memoryEffect i s)) ∧
      SameOutside s (respond (answerOf i s) (memoryEffect i s)) :=
  ⟨exec_of_no_fault h hs hm,
    respond_completed _ _ _ (memoryEffect_outside i s).2.1 (memoryEffect_outside i s).2.2,
    respond_outside _ (memoryEffect_outside i s).1⟩

end Sys2Proof.Machine
end

