-- ==== Sys2Proof/Laws/Palette.lean ====
section
/-!
SUPPORT. What the rotation of `PAL.CYCLE` does, said once (spec/40_palette.md R96): what every index reads
after the loop and after the whole rotation, and that both keep the canonical form.
-/

namespace Sys2Proof.Machine

theorem wf_shiftDown {d : Nat → Color} {P : Nat} (n i : Nat) {m : Memory Color} (h : Memory.wf d P m)
    (hn : i + n ≤ P) : Memory.wf d P (shiftDown d n i m) := by
  induction n generalizing i m with
  | zero => exact h
  | succ n ih => exact ih (i + 1) (Memory.wf_write _ h (by omega)) (by omega)

/-- After the loop, each index it covers reads what the next one read before, the others as before. -/
theorem read_shiftDown {d : Nat → Color} {P : Nat} (n i : Nat) {m : Memory Color} (h : Memory.wf d P m)
    (hn : i + n ≤ P) (j : Nat) :
    Memory.read (d j) (shiftDown d n i m) j =
      if i ≤ j ∧ j < i + n then Memory.read (d (j + 1)) m (j + 1) else Memory.read (d j) m j := by
  induction n generalizing i m with
  | zero => rw [if_neg (by omega)]; rfl
  | succ n ih =>
    rw [shiftDown, ih (i + 1) (Memory.wf_write _ h (by omega)) (by omega)]
    by_cases hj : j = i
    · subst hj
      rw [if_neg (by omega), if_pos (by omega), Memory.read_write_self _ _ h]
    · split_ifs <;>
        first
        | omega
        | rw [Memory.read_write_of_ne _ _ _ _ _ _ (by omega)]

/-- After the rotation of the first `num` entries. -/
theorem palRead_rotatePalette {num : Nat} {s : State} (hs : MemoriesOk s) (h1 : 1 ≤ num)
    (h2 : num ≤ s.cfg.P) (i : Nat) :
    palRead (rotatePalette num s) i =
      if i + 1 < num then palRead s (i + 1) else if i + 1 = num then palRead s 0 else palRead s i := by
  have hw := wf_shiftDown (num - 1) 0 hs.pal (by omega)
  show Memory.read (paletteInitAt s.cfg i) (Memory.write (paletteInitAt s.cfg (num - 1)) (num - 1)
    (palRead s 0) (shiftDown (paletteInitAt s.cfg) (num - 1) 0 s.pal)) i = _
  by_cases hi : i = num - 1
  · subst hi
    rw [Memory.read_write_self _ _ hw, if_neg (by omega), if_pos (by omega)]
  · rw [Memory.read_write_of_ne _ _ _ _ _ _ hi, read_shiftDown _ _ hs.pal (by omega)]
    split_ifs <;> first | omega | rfl

/-- The rotation keeps the canonical form. -/
theorem wf_rotatePalette {num : Nat} {s : State} (hs : MemoriesOk s) (h1 : 1 ≤ num) (h2 : num ≤ s.cfg.P) :
    Memory.wf (paletteInitAt s.cfg) s.cfg.P (rotatePalette num s).pal :=
  Memory.wf_write _ (wf_shiftDown (num - 1) 0 hs.pal (by omega)) (by omega)

end Sys2Proof.Machine
end

