-- ==== Sys2Proof/Laws/Memories.lean ====
section
/-!
SUPPORT. Every operation on the three memories keeps their canonical form, the reset state has it
(spec/20_memory.md R50), and what each operation on a whole memory reads afterwards.
-/

namespace Sys2Proof.Machine

/-- The canonical form depends on the parameters and the memories only. -/
theorem memoriesOk_congr {s t : State} (h : MemoriesOk s) (hc : t.cfg = s.cfg) (hp : t.pal = s.pal)
    (h1 : t.fb1 = s.fb1) (hm : t.fbm = s.fbm) : MemoriesOk t :=
  ⟨by rw [hc, hp]; exact h.pal, by rw [hc, h1]; exact h.fb1, by rw [hc, hm]; exact h.fbm⟩

theorem memoriesOk_palWrite {s : State} (h : MemoriesOk s) {i : Nat} (hi : i < s.cfg.P) (e : Color) :
    MemoriesOk (palWrite i e s) :=
  ⟨Memory.wf_write e h.pal hi, h.fb1, h.fbm⟩

theorem memoriesOk_rotatePalette {s : State} (h : MemoriesOk s) {num : Nat} (h1 : 1 ≤ num)
    (h2 : num ≤ s.cfg.P) : MemoriesOk (rotatePalette num s) :=
  ⟨wf_rotatePalette h h1 h2, h.fb1, h.fbm⟩

theorem memoriesOk_fb1Write {s : State} (h : MemoriesOk s) {p : Nat} (hp : p < s.cfg.N1) (v : Byte) :
    MemoriesOk (fb1Write p v s) :=
  ⟨h.pal, Memory.wf_write v h.fb1 hp, h.fbm⟩

theorem memoriesOk_fb1FillAll {s : State} (h : MemoriesOk s) (v : Byte) : MemoriesOk (fb1FillAll v s) :=
  ⟨h.pal, Memory.wf_fill 0 s.cfg.N1 v, h.fbm⟩

theorem memoriesOk_fbmWrite {s : State} (h : MemoriesOk s) (k : Fin 8) {p : Nat} (hp : p < s.cfg.NM)
    (v : Byte) : MemoriesOk (fbmWrite k p v s) := by
  refine ⟨h.pal, h.fb1, fun j => ?_⟩
  show Memory.wf _ s.cfg.NM ((s.fbm.set k _).get j)
  rw [Lanes.get_set]
  split_ifs
  · exact Memory.wf_write v (h.fbm k) hp
  · exact h.fbm j

theorem memoriesOk_fbmFillAll {s : State} (h : MemoriesOk s) (v : Byte) : MemoriesOk (fbmFillAll v s) := by
  refine ⟨h.pal, h.fb1, fun j => ?_⟩
  show Memory.wf _ s.cfg.NM ((Lanes.ofFn _).get j)
  rw [Lanes.get_ofFn]
  exact Memory.wf_fill 0 s.cfg.NM v

theorem memoriesOk_resetOf (c : Config) : MemoriesOk (State.resetOf c) :=
  ⟨Memory.wf_nil _ _, Memory.wf_nil _ _, fun k => by fin_cases k <;> exact Memory.wf_nil _ _⟩

/-- An element of `FB1` outside the buffer reads as 0. -/
theorem fb1Read_outside {s : State} (h : MemoriesOk s) {p : Nat} (hp : s.cfg.N1 ≤ p) : fb1Read s p = 0 :=
  Memory.read_unlisted _ _ _ fun c hc e => by have := (h.fb1.2 c hc).1; omega

/-- An element of `FBM` outside the strip reads as 0. -/
theorem fbmRead_outside {s : State} (h : MemoriesOk s) (k : Fin 8) {p : Nat} (hp : s.cfg.NM ≤ p) :
    fbmRead s k p = 0 :=
  Memory.read_unlisted _ _ _ fun c hc e => by have := ((h.fbm k).2 c hc).1; omega

theorem palRead_palWrite {s : State} (h : MemoriesOk s) (i : Nat) (e : Color) (j : Nat) :
    palRead (palWrite i e s) j = if j = i then e else palRead s j := by
  split_ifs with hj
  · subst hj; exact Memory.read_write_self _ _ h.pal
  · exact Memory.read_write_of_ne _ _ _ _ _ _ hj

theorem fb1Read_fb1Write {s : State} (h : MemoriesOk s) (p : Nat) (v : Byte) (q : Nat) :
    fb1Read (fb1Write p v s) q = if q = p then v else fb1Read s q := by
  split_ifs with hq
  · subst hq; exact Memory.read_write_self _ _ h.fb1
  · exact Memory.read_write_of_ne _ _ _ _ _ _ hq

theorem fb1Read_fb1FillAll (s : State) (v : Byte) (p : Nat) :
    fb1Read (fb1FillAll v s) p = if p < s.cfg.N1 then v else 0 := Memory.read_fill 0 s.cfg.N1 v p

theorem fbmRead_fbmWrite {s : State} (h : MemoriesOk s) (k : Fin 8) (p : Nat) (v : Byte) (j : Fin 8) (q : Nat) :
    fbmRead (fbmWrite k p v s) j q = if j = k ∧ q = p then v else fbmRead s j q := by
  show Memory.read 0 ((s.fbm.set k _).get j) q = _
  rw [Lanes.get_set]
  by_cases hj : j = k
  · subst hj
    rw [if_pos rfl]
    simp only [true_and]
    split_ifs with hq
    · subst hq; exact Memory.read_write_self _ _ (h.fbm j)
    · exact Memory.read_write_of_ne _ _ _ _ _ _ hq
  · rw [if_neg hj, if_neg (fun e => hj e.1)]; rfl

theorem fbmRead_fbmFillAll (s : State) (v : Byte) (k : Fin 8) (p : Nat) :
    fbmRead (fbmFillAll v s) k p = if p < s.cfg.NM then v else 0 := by
  show Memory.read 0 ((Lanes.ofFn _).get k) p = _
  rw [Lanes.get_ofFn]
  exact Memory.read_fill 0 s.cfg.NM v p

/-- The elements of the frame buffers depend on the parameters and the frame buffers only. -/
theorem indicesOk_congr {s t : State} (h : IndicesOk s) (hc : t.cfg = s.cfg) (h1 : t.fb1 = s.fb1)
    (hm : t.fbm = s.fbm) : IndicesOk t :=
  ⟨by intro p; rw [fb1Read, hc, h1]; exact h.fb1 p, by intro k p; rw [fbmRead, hc, hm]; exact h.fbm k p⟩

/-- The pins and the phase agree as long as neither moves. -/
theorem pinsOk_congr {s t : State} (h : PinsOk s) (hk : t.ledClk = s.ledClk) (hd : t.ledData = s.ledData)
    (hl : t.ledSel = s.ledSel) (hp : t.phase = s.phase) (ha : t.act = s.act) (hs : t.shift = s.shift)
    (hb : t.bitn = s.bitn) (hw : t.wire = s.wire) : PinsOk t :=
  ⟨by rw [hk, hp]; exact h.clk, by rw [hl, hp, ha]; exact h.sel, by rw [hp, hd, hs, ha, hb]; exact h.data,
    by rw [hw, pins, hk, hd, hl]; exact h.recorded⟩

/-- Every place of the panel is on a strip. -/
theorem position_lt {x y : Nat} (hx : x < 32) (hy : y < 32) : position x y < 128 := by
  have : foldIndex x < 4 := by by_cases h : 16 ≤ x <;> simp [foldIndex, half, h] <;> omega
  simp only [position]
  split_ifs <;> omega

/-- What a command that does not fault stores keeps the memories in canonical form. -/
theorem memoriesOk_memoryEffect {i : Instr} {s : State} (h : MemoriesOk s)
    (hf : expectedFault s.cfg i = none) : MemoriesOk (memoryEffect i s) := by
  cases i <;>
    simp only [expectedFault, ite_eq_right_iff, reduceCtorEq, imp_false, not_le, not_or, not_lt] at hf <;>
    simp only [memoryEffect] <;>
    first
    | exact h
    | exact memoriesOk_palWrite h hf _
    | exact memoriesOk_rotatePalette h hf.1 hf.2
    | exact memoriesOk_fb1FillAll h _
    | exact memoriesOk_fbmFillAll h _
    | skip
  case fb1Set pos v =>
    split_ifs at hf with h1 h2
    exact memoriesOk_fb1Write h (by omega) v
  case fbmSet k pos v =>
    split_ifs at hf with h1 h2
    exact memoriesOk_fbmWrite h _ (by omega) v
  case fbmSetxy x y v =>
    split_ifs at hf with h1 h2 h3
    have : pixelPos x y < 128 := position_lt (by omega) (by omega)
    exact memoriesOk_fbmWrite h _ (by omega) v

end Sys2Proof.Machine
end

