-- ==== Sys2Proof/Laws/Sequencer.lean ====
section
/-!
SUPPORT. The steps of a command in progress, said once: what one step is, how runs compose, and that the
25 phase steps of a slot are `TxSlot` followed by the advance of the sequencer registers
(spec/44_bit_transmit.md R173, R174).
-/

namespace Sys2Proof.Machine

@[simp] theorem run_zero (s : State) : run 0 s = .next s := rfl

theorem run_succ_of_next {s t : State} (h : step s = .next t) (k : Nat) : run (k + 1) s = run k t := by
  have h' : core.step s = .next t := h
  simp only [run, Host.Core.run]
  rw [h']

theorem run_succ_of_fault {s : State} {f : Fault} (h : step s = .fault f) (k : Nat) : run (k + 1) s = .fault f := by
  have h' : core.step s = .fault f := h
  simp only [run, Host.Core.run]
  rw [h']
  rfl

theorem run_succ_of_refused {s : State} {r : Refusal} (h : step s = .refused r) (k : Nat) :
    run (k + 1) s = .refused r := by
  have h' : core.step s = .refused r := h
  simp only [run, Host.Core.run]
  rw [h']
  rfl

theorem run_one_of_next {s t : State} (h : step s = .next t) : run 1 s = .next t := by
  rw [run_succ_of_next h]; rfl

/-- Runs compose. -/
theorem run_add {s t : State} {j : Nat} (h : run j s = .next t) (k : Nat) : run (j + k) s = run k t := by
  induction j generalizing s with
  | zero => rw [run_zero] at h; injection h with h; subst h; rw [Nat.zero_add]
  | succ j ih =>
    cases hs : step s with
    | next u =>
      rw [run_succ_of_next hs] at h
      rw [show j + 1 + k = j + k + 1 by omega, run_succ_of_next hs, ih h]
    | fault f => rw [run_succ_of_fault hs] at h; cases h
    | refused r => rw [run_succ_of_refused hs] at h; cases h

/-- No reset in the next `n` steps. -/
abbrev QuietFor (n : Nat) (s : State) : Prop := ∀ e ∈ s.host.take n, e.rst = false

/-- The state after the inputs of `n` steps have been taken. -/
abbrev inputsTaken (n : Nat) (s : State) : State := { s with host := s.host.drop n }

theorem hostInput_rst_of_quiet {n : Nat} {s : State} (h : QuietFor (n + 1) s) : (hostInput s).rst = false := by
  unfold QuietFor at h
  unfold hostInput
  cases hh : s.host with
  | nil => rfl
  | cons e l => exact h e (by simp [hh])

theorem quietFor_mono {m n : Nat} {s : State} (h : QuietFor n s) (hmn : m ≤ n) : QuietFor m s :=
  fun e he => h e (List.take_subset_take_left _ hmn he)

theorem quietFor_inputsTaken {m n : Nat} {s : State} (h : QuietFor (n + m) s) : QuietFor m (inputsTaken n s) := by
  intro e he
  apply h
  have : e ∈ (s.host.drop n).take m := he
  rw [List.take_drop] at this
  exact List.mem_of_mem_drop this

theorem consumeInput_eq (s : State) : consumeInput s = inputsTaken 1 s := by
  simp [consumeInput, inputsTaken]

/-- A step of a busy block, without reset, is a block step. -/
theorem step_of_busy {s : State} (hb : s.busy = true) (hr : (hostInput s).rst = false) :
    step s = blockStep (inputsTaken 1 s) := by
  simp [step, machineStep, reactTo, hr, hb, consumeInput_eq]

/-- A step of a render in progress, without reset, is a phase step. -/
theorem step_of_render {m : RenderMode} {s : State} (hb : s.busy = true) (hr : (hostInput s).rst = false)
    (hs : s.stage ≠ .none) (hm : activeMode s = some m) : step s = renderPhase m (inputsTaken 1 s) := by
  rw [step_of_busy hb hr]
  have hm' : activeMode (inputsTaken 1 s) = some m := hm
  unfold blockStep
  rw [hm']
  cases h : s.stage <;> first | exact absurd h hs | rfl

theorem renderPhase_clockLow {m : RenderMode} {s : State} (hp : s.phase = .clockLow) (hn : s.bitn ≠ 0) :
    renderPhase m s = .next (phaseSetData (s.bitn.toNat - 1) s) := by
  simp only [renderPhase, hp, if_neg hn]

theorem renderPhase_payload {m : RenderMode} {s : State} (hp : s.phase = .idle) (hs : s.stage = .payload)
    (h : placeOk m s = true) (hr : positionReadable m s.act s s.pos.toNat = true) :
    renderPhase m s = .next (beginSlot m s) := by simp [renderPhase, hp, hs, h, hr]

theorem renderPhase_latch {m : RenderMode} {s : State} (hp : s.phase = .idle) (hs : s.stage = .latch) :
    renderPhase m s = if s.lcnt = 0 then .next (renderFinish s) else .next (beginSlot m s) := by
  simp [renderPhase, hp, hs]

/-- A render is in progress in mode `m` and is not reset in the next `n` steps. -/
structure Sending (m : RenderMode) (n : Nat) (s : State) : Prop where
  busy : s.busy = true
  stage : s.stage ≠ .none
  mode : activeMode s = some m
  quiet : QuietFor n s

theorem sending_congr {m : RenderMode} {n : Nat} {s t : State} (h : Sending m n s) (hb : t.busy = s.busy)
    (hs : t.stage = s.stage) (ho : t.cmdrOp = s.cmdrOp) (ha : t.cmdrArg = s.cmdrArg) (hh : t.host = s.host) :
    Sending m n t :=
  ⟨hb.trans h.busy, hs ▸ h.stage, by have := h.mode; rwa [activeMode, fetch, ← ho, ← ha] at this,
    by have := h.quiet; rwa [QuietFor, ← hh] at this⟩

theorem sending_inputsTaken {m : RenderMode} {j n : Nat} {s : State} (h : Sending m (j + n) s) :
    Sending m n (inputsTaken j s) :=
  ⟨h.busy, h.stage, h.mode, quietFor_inputsTaken h.quiet⟩

theorem sending_mono {m : RenderMode} {j n : Nat} {s : State} (h : Sending m n s) (hj : j ≤ n) :
    Sending m j s :=
  ⟨h.busy, h.stage, h.mode, quietFor_mono h.quiet hj⟩

theorem step_of_sending {m : RenderMode} {n : Nat} {s : State} (h : Sending m (n + 1) s) :
    step s = renderPhase m (inputsTaken 1 s) :=
  step_of_render h.busy (hostInput_rst_of_quiet h.quiet) h.stage h.mode

theorem inputsTaken_inputsTaken (j k : Nat) (s : State) :
    inputsTaken j (inputsTaken k s) = inputsTaken (k + j) s := by simp [inputsTaken]

/-- The clock pulse of a bit: the two steps after `SET_DATA`. -/
theorem run_pulse {m : RenderMode} (j : Nat) {s : State} (h : Sending m 2 s) :
    run 2 (phaseSetData j s) =
      .next (phaseClockLow (phaseClockHigh (phaseSetData j (inputsTaken 2 s)))) := by
  have a1 : Sending m 2 (phaseSetData j s) := sending_congr h rfl rfl rfl rfl rfl
  have h1 : step (phaseSetData j s) = .next (phaseClockHigh (inputsTaken 1 (phaseSetData j s))) :=
    step_of_sending a1
  have a2 : Sending m 1 (phaseClockHigh (inputsTaken 1 (phaseSetData j s))) :=
    sending_congr (sending_inputsTaken (j := 1) a1) rfl rfl rfl rfl rfl
  have h2 : step (phaseClockHigh (inputsTaken 1 (phaseSetData j s))) =
      .next (phaseClockLow (inputsTaken 1 (phaseClockHigh (inputsTaken 1 (phaseSetData j s))))) :=
    step_of_sending a2
  rw [run_succ_of_next h1, run_one_of_next h2]
  simp [phaseClockHigh, phaseClockLow, phaseSetData, recordPins, pins]

/-- The phase steps from `SET_DATA` of bit `j` to the end of the slot. -/
theorem run_bits {m : RenderMode} (j : Nat) (hj : j < 8) {s : State} (h : Sending m (3 * (j + 1)) s) :
    run (3 * (j + 1)) (phaseSetData j s) =
      .next (advanceSlot m (phaseIdle (txBits (j + 1) (inputsTaken (3 * (j + 1)) s)))) := by
  induction j generalizing s with
  | zero =>
    have h1 := run_pulse 0 (sending_mono h (j := 2) (by omega))
    have a : Sending m 1 (phaseClockLow (phaseClockHigh (phaseSetData 0 (inputsTaken 2 s)))) :=
      sending_congr (sending_inputsTaken (j := 2) h) rfl rfl rfl rfl rfl
    have h2 := step_of_sending a
    have h3 : renderPhase m (inputsTaken 1 (phaseClockLow (phaseClockHigh (phaseSetData 0 (inputsTaken 2 s))))) =
        .next (advanceSlot m (phaseIdle (inputsTaken 1
          (phaseClockLow (phaseClockHigh (phaseSetData 0 (inputsTaken 2 s))))))) := rfl
    rw [show 3 * (0 + 1) = 2 + 1 from rfl, run_add h1, run_one_of_next (h2.trans h3)]
    simp [txBits, phaseIdle, phaseClockHigh, phaseClockLow, phaseSetData, recordPins, pins]
  | succ j ih =>
    have h1 := run_pulse (j + 1) (sending_mono h (j := 2) (by omega))
    have a : Sending m (3 * (j + 1) + 1) (phaseClockLow (phaseClockHigh (phaseSetData (j + 1) (inputsTaken 2 s)))) :=
      sending_congr (sending_inputsTaken (j := 2) (sending_mono h (by omega))) rfl rfl rfl rfl rfl
    have h2 := step_of_sending a
    have a' := sending_inputsTaken (j := 1) (n := 3 * (j + 1)) (by rwa [Nat.add_comm])
    have h3 : renderPhase m (inputsTaken 1 (phaseClockLow (phaseClockHigh (phaseSetData (j + 1) (inputsTaken 2 s))))) =
        .next (phaseSetData j (inputsTaken 1
          (phaseClockLow (phaseClockHigh (phaseSetData (j + 1) (inputsTaken 2 s)))))) := by
      have hz : ¬ BitVec.ofNat 3 (j + 1) = 0 := by
        intro e
        have := congrArg BitVec.toNat e
        simp at this; omega
      have ht : (BitVec.ofNat 3 (j + 1)).toNat - 1 = j := by simp; omega
      rw [renderPhase_clockLow rfl hz]
      show Host.Outcome.next (phaseSetData ((BitVec.ofNat 3 (j + 1)).toNat - 1) _) = _
      rw [ht]
    have h4 := ih (by omega) a'
    rw [show 3 * (j + 1 + 1) = 2 + (3 * (j + 1) + 1) by omega, run_add h1, run_succ_of_next (h2.trans h3), h4]
    have : inputsTaken (3 * (j + 1)) (inputsTaken 1
          (phaseClockLow (phaseClockHigh (phaseSetData (j + 1) (inputsTaken 2 s))))) =
        phaseClockLow (phaseClockHigh (phaseSetData (j + 1) (inputsTaken (2 + (3 * (j + 1) + 1)) s))) := by
      rw [inputsTaken_inputsTaken, Nat.add_comm 1]
      simp [phaseClockHigh, phaseClockLow, phaseSetData, recordPins, pins]
    rw [this]
    rfl

/-- The place a slot is sent from: a readable position, or a latch byte left. -/
def SlotReady (m : RenderMode) (s : State) : Prop :=
  match s.stage with
  | .none => False
  | .payload => placeOk m s = true ∧ positionReadable m s.act s s.pos.toNat = true
  | .latch => s.lcnt ≠ 0

/-- The 25 phase steps of a slot are `TxSlot` and the advance of the sequencer registers. -/
theorem run_slot {m : RenderMode} {s : State} (h : Sending m 25 s) (hp : s.phase = .idle)
    (hs : SlotReady m s) :
    run 25 s = .next (advanceSlot m (txSlot (slotBytes m s) (inputsTaken 25 s))) := by
  have h1 : step s = .next (beginSlot m (inputsTaken 1 s)) := by
    rw [step_of_sending h]
    unfold SlotReady at hs
    cases e : s.stage with
    | none => exact absurd e h.stage
    | payload =>
      simp only [e] at hs
      have h3 : positionReadable m s.act (inputsTaken 1 s) s.pos.toNat = true := by
        cases m <;> exact hs.2
      exact renderPhase_payload hp e hs.1 h3
    | latch =>
      simp only [e] at hs
      exact (renderPhase_latch (s := inputsTaken 1 s) hp e).trans (if_neg hs)
  have hb : slotBytes m (inputsTaken 1 s) = slotBytes m s := slotBytes_congr m rfl rfl rfl rfl rfl rfl rfl rfl
  have a : Sending m 24 { inputsTaken 1 s with shift := slotBytes m s } :=
    sending_congr (sending_inputsTaken (j := 1) h) rfl rfl rfl rfl rfl
  have h2 := run_bits (m := m) 7 (by omega) a
  rw [run_succ_of_next h1, beginSlot, hb]
  refine Eq.trans h2 ?_
  simp [txSlot, inputsTaken]

end Sys2Proof.Machine
end

