-- ==== Sys2Proof/Laws/Frame.lean ====
section
/-!
SUPPORT. The slots of a frame follow one another as the sequencer registers advance, and the phase steps of
a render, taken one by one, are the whole frame (spec/43_protocol_driver.md R153, R156,
spec/44_bit_transmit.md R174).
-/

namespace Sys2Proof.Machine

/-- `y` is the slot that follows `x` in a frame. -/
def SlotNext (m : RenderMode) (c : Config) (x y : Slot) : Prop :=
  match x, y with
  | .colour p k, .colour p' k' =>
    (k.toNat < 2 ∧ p' = p ∧ k' = k + 1) ∨
      (¬ k.toNat < 2 ∧ p.toNat + 1 < m.length c ∧ p' = p + 1 ∧ k' = 0)
  | .colour p k, .latch n =>
    ¬ k.toNat < 2 ∧ ¬ p.toNat + 1 < m.length c ∧ n = BitVec.ofNat 12 (m.latchCount c)
  | .latch n, .latch n' => n' = n - 1
  | .latch _, .colour _ _ => False

/-- The registers of a slot are in the ranges of spec/10_state.md R27. -/
def SlotGood (m : RenderMode) (c : Config) : Slot → Prop
  | .colour p k => p.toNat < m.length c ∧ k.toNat < 3
  | .latch n => n ≠ 0

/-- All that one slot does from `LED_CLK = 0`. -/
theorem sendSlot_eq (m : RenderMode) (s : State) (sl : Slot) (h : s.ledClk = false) :
    sendSlot m s sl =
      { seekSlot sl s with
        shift := slotBytes m (seekSlot sl s)
        bitn := 0
        phase := .idle
        ledClk := false
        ledData := dataBits (slotBytes m (seekSlot sl s)) s.act 0
        ledSel := 0
        wire := (slotWire (slotBytes m (seekSlot sl s)) s.act).reverse ++ s.wire } := by
  rw [sendSlot, txSlot_eq _ _ (by simpa using h)]
  cases sl <;> rfl

/-- A slot does not touch the host's inputs. -/
theorem sendSlot_inputsTaken (m : RenderMode) (n : Nat) (s : State) (sl : Slot) (h : s.ledClk = false) :
    sendSlot m (inputsTaken n s) sl = inputsTaken n (sendSlot m s sl) := by
  have h1 := sendSlot_eq m s sl h
  have h2 := sendSlot_eq m (inputsTaken n s) sl h
  rw [slotBytes_seekSlot_congr m sl (s := s) (t := inputsTaken n s) rfl rfl rfl rfl rfl] at h2
  rw [h1, h2]
  cases sl <;> rfl

theorem foldl_sendSlot_inputsTaken (m : RenderMode) (n : Nat) (l : List Slot) {s : State}
    (h : s.ledClk = false) :
    l.foldl (sendSlot m) (inputsTaken n s) = inputsTaken n (l.foldl (sendSlot m) s) := by
  induction l generalizing s with
  | nil => rfl
  | cons x l ih =>
    rw [List.foldl_cons, List.foldl_cons, ← ih (sendSlot_sent m s x h).clk, sendSlot_inputsTaken m n s x h]

/-- The advance after a slot is the start of the slot that follows it. -/
theorem advanceSlot_sendSlot (m : RenderMode) (s : State) (x y : Slot) (h : s.ledClk = false)
    (hn : SlotNext m s.cfg x y) : advanceSlot m (sendSlot m s x) = seekSlot y (sendSlot m s x) := by
  rw [sendSlot_eq m s x h]
  cases x with
  | colour p k =>
    cases y with
    | colour p' k' =>
      rcases hn with ⟨h1, rfl, rfl⟩ | ⟨h1, h2, rfl, rfl⟩
      · simp [advanceSlot, seekSlot, h1]
      · simp [advanceSlot, seekSlot, h1, h2]
    | latch n =>
      obtain ⟨h1, h2, rfl⟩ := hn
      simp [advanceSlot, seekSlot, h1, h2]
  | latch n =>
    cases y with
    | colour p' k' => exact hn.elim
    | latch n' =>
      cases hn
      simp [advanceSlot, seekSlot]

/-- The state at the start of a slot of a readable frame can send it. -/
theorem slotReady_seekSlot {m : RenderMode} {s : State} {sl : Slot} (ha : s.act = m.lines s.cfg)
    (hr : frameReadable m s = true) (hg : SlotGood m s.cfg sl) : SlotReady m (seekSlot sl s) := by
  cases sl with
  | latch n => exact hg
  | colour p k =>
    refine ⟨decide_eq_true hg, ?_⟩
    have h : positionReadable m s.act s p.toNat = true := by
      rw [ha]
      exact List.all_eq_true.1 hr p.toNat (List.mem_range.2 hg.1)
    cases m <;> exact h

/-- The phase steps of one slot, from its start. -/
theorem run_seekSlot {m : RenderMode} {s : State} {sl : Slot} (h : Sending m 25 (seekSlot sl s))
    (ha : s.act = m.lines s.cfg) (hp : s.phase = .idle) (hc : s.ledClk = false)
    (hr : frameReadable m s = true) (hg : SlotGood m s.cfg sl) :
    run 25 (seekSlot sl s) = .next (advanceSlot m (inputsTaken 25 (sendSlot m s sl))) := by
  rw [run_slot h (by cases sl <;> exact hp) (slotReady_seekSlot ha hr hg), ← sendSlot_inputsTaken m 25 s sl hc,
    sendSlot, slotBytes_seekSlot_congr m sl (s := s) (t := inputsTaken 25 s) rfl rfl rfl rfl rfl]
  cases sl <;> rfl

theorem sending_seekSlot {m : RenderMode} {n : Nat} {s : State} (sl : Slot) (hb : s.busy = true)
    (hm : activeMode s = some m) (hq : QuietFor n s) : Sending m n (seekSlot sl s) := by
  cases sl <;> exact ⟨hb, by simp [seekSlot], hm, hq⟩

/-- The phase steps of a chain of slots are those slots, sent one after the other. -/
theorem run_slots (m : RenderMode) (l : List Slot) (sl : Slot) (s : State) (hb : s.busy = true)
    (hm : activeMode s = some m) (ha : s.act = m.lines s.cfg) (hp : s.phase = .idle)
    (hc : s.ledClk = false) (hr : frameReadable m s = true) (hg : ∀ x ∈ sl :: l, SlotGood m s.cfg x)
    (hl : (sl :: l).IsChain (SlotNext m s.cfg)) (hq : QuietFor (25 * (l.length + 1)) s) :
    run (25 * (l.length + 1)) (seekSlot sl s) =
      .next (advanceSlot m (inputsTaken (25 * (l.length + 1)) ((sl :: l).foldl (sendSlot m) s))) := by
  have h1 := run_seekSlot (sending_seekSlot sl hb hm (quietFor_mono hq (by omega))) ha hp hc hr (hg sl (by simp))
  induction l generalizing sl s with
  | nil => exact h1
  | cons sl' l ih =>
    have hs := sendSlot_sent m s sl hc
    have hn := advanceSlot_sendSlot m (inputsTaken 25 s) sl sl' hc (List.isChain_cons_cons.1 hl).1
    rw [sendSlot_inputsTaken m 25 s sl hc] at hn
    rw [hn] at h1
    have e : 25 * ((sl' :: l).length + 1) = 25 + 25 * (l.length + 1) := by
      simp only [List.length_cons]; omega
    have hb' : (inputsTaken 25 (sendSlot m s sl)).busy = true := hs.busy.trans hb
    have hm' : activeMode (inputsTaken 25 (sendSlot m s sl)) = some m := by
      simpa only [activeMode, fetch, inputsTaken, hs.cmdrOp, hs.cmdrArg] using hm
    have ha' : (inputsTaken 25 (sendSlot m s sl)).act = m.lines (inputsTaken 25 (sendSlot m s sl)).cfg := by
      simpa only [inputsTaken, hs.act, hs.cfg] using ha
    have hp' : (inputsTaken 25 (sendSlot m s sl)).phase = .idle := by
      simp only [sendSlot_eq m s sl hc]
    have hr' : frameReadable m (inputsTaken 25 (sendSlot m s sl)) = true :=
      (frameReadable_congr m hs.cfg hs.fb1 hs.fbm).trans hr
    have hg' : ∀ x ∈ sl' :: l, SlotGood m (inputsTaken 25 (sendSlot m s sl)).cfg x := by
      simpa only [inputsTaken, hs.cfg] using fun x hx => hg x (List.mem_cons_of_mem _ hx)
    have hl' : (sl' :: l).IsChain (SlotNext m (inputsTaken 25 (sendSlot m s sl)).cfg) := by
      simpa only [inputsTaken, hs.cfg] using (List.isChain_cons_cons.1 hl).2
    have hq' : QuietFor (25 * (l.length + 1)) (inputsTaken 25 (sendSlot m s sl)) := by
      have := quietFor_inputsTaken (n := 25) (m := 25 * (l.length + 1)) (by rw [← e]; exact hq)
      simpa only [QuietFor, inputsTaken, hs.host] using this
    have h2 := ih sl' (inputsTaken 25 (sendSlot m s sl)) hb' hm' ha' hp' hs.clk hr' hg' hl' hq'
      (run_seekSlot (sending_seekSlot sl' hb' hm' (quietFor_mono hq' (by omega))) ha' hp' hs.clk hr'
        (hg' sl' (by simp)))
    rw [e, run_add h1, h2, foldl_sendSlot_inputsTaken m 25 _ hs.clk, inputsTaken_inputsTaken]
    rfl

/-- The latch slots follow one another. -/
theorem latchSlots_chain (m : RenderMode) (c : Config) (n : Nat) (h : n < 4096) : (latchSlots n).IsChain (SlotNext m c) := by
  induction n with
  | zero => exact .nil
  | succ n ih => 
    cases n with
    | zero => exact .singleton _
    | succ n =>
      refine List.isChain_cons_cons.2 ⟨?_, ih (by omega)⟩
      show BitVec.ofNat 12 (n+1) = BitVec.ofNat 12 (n+1+1) - 1
      apply BitVec.eq_of_toNat_eq; simp; omega

/-- The slots of a frame follow one another. -/
theorem frameSlots_chain (m : RenderMode) (c : Config) : (frameSlots m c).IsChain (SlotNext m c) := by
  have key : ∀ k n, k + n = m.length c → 0 < n →
      ((List.range' k n).flatMap positionSlots ++ latchSlots (m.latchCount c)).IsChain (SlotNext m c) := by
    intro k n
    have hl := length_range m c
    have hlc := latchCount_pos m c
    have hle := latchCount_le m c
    induction n generalizing k with
    | zero => intro _ h; omega
    | succ n ih =>
      intro h _
      rw [List.range'_succ, List.flatMap_cons]
      simp only [positionSlots, List.cons_append, List.nil_append]
      refine List.isChain_cons_cons.2 ⟨.inl ⟨by simp, rfl, rfl⟩, ?_⟩
      refine List.isChain_cons_cons.2 ⟨.inl ⟨by simp, rfl, rfl⟩, ?_⟩
      cases n with
      | zero =>
        simp only [List.range'_zero, List.flatMap_nil, List.nil_append]
        obtain ⟨q, hq⟩ : ∃ q, m.latchCount c = q + 1 := ⟨m.latchCount c - 1, by omega⟩
        rw [hq, latchSlots]
        refine List.isChain_cons_cons.2 ⟨⟨by simp, ?_, by rw [hq]⟩, ?_⟩
        · simp only [BitVec.toNat_ofNat]; omega
        · show (latchSlots (q+1)).IsChain _; rw [← hq]; exact latchSlots_chain m c _ (by omega)
      | succ n =>
        have := ih (k+1) (by omega) (by omega)
        rw [List.range'_succ, List.flatMap_cons] at this ⊢
        simp only [positionSlots, List.cons_append, List.nil_append] at this ⊢
        refine List.isChain_cons_cons.2 ⟨.inr ⟨by simp, ?_, ?_, rfl⟩, this⟩
        · simp only [BitVec.toNat_ofNat]; omega
        · apply BitVec.eq_of_toNat_eq; simp
  have := key 0 (m.length c) (by omega) (by have := length_range m c; omega)
  rwa [← List.range_eq_range'] at this

/-- Every slot of a frame is in range. -/
theorem frameSlots_good (m : RenderMode) (c : Config) : ∀ x ∈ frameSlots m c, SlotGood m c x := by
  intro x hx
  have hl := length_range m c
  have hle := latchCount_le m c
  rw [frameSlots, List.mem_append] at hx
  rcases hx with hx | hx
  · obtain ⟨p, hp, hx⟩ := List.mem_flatMap.1 hx
    rw [List.mem_range] at hp
    have hp' : (BitVec.ofNat 16 p).toNat < m.length c := by simp; omega
    simp only [positionSlots, List.mem_cons, List.not_mem_nil, or_false] at hx
    rcases hx with rfl | rfl | rfl <;> exact ⟨hp', by simp⟩
  · have : ∀ n, n < 4096 → x ∈ latchSlots n → SlotGood m c x := by
      intro n
      induction n with
      | zero => intro _ h; cases h
      | succ n ih =>
        intro hn h
        rw [latchSlots, List.mem_cons] at h
        rcases h with rfl | h
        · intro e
          have := congrArg BitVec.toNat e
          simp at this; omega
        · exact ih (by omega) h
    exact this _ (by omega) hx

/-- A frame begins with the green component of position 0. -/
theorem frameSlots_first (m : RenderMode) (c : Config) : ∃ L, frameSlots m c = .colour 0 0 :: L := by
  obtain ⟨n, hn⟩ : ∃ n, m.length c = n + 1 := ⟨m.length c - 1, by have := length_range m c; omega⟩
  rw [frameSlots, hn, List.range_succ_eq_map]
  simp only [List.flatMap_cons, positionSlots, List.cons_append]
  exact ⟨_, rfl⟩

/-- A frame ends with its last latch byte. -/
theorem frameSlots_last (m : RenderMode) (c : Config) : ∃ L, frameSlots m c = L ++ [.latch 1] := by
  obtain ⟨n, hn⟩ : ∃ n, m.latchCount c = n + 1 := ⟨m.latchCount c - 1, by have := latchCount_pos m c; omega⟩
  have : ∀ n, ∃ L, latchSlots (n + 1) = L ++ [.latch 1] := by
    intro n
    induction n with
    | zero => exact ⟨[], rfl⟩
    | succ n ih => obtain ⟨L, hL⟩ := ih; exact ⟨_ :: L, by rw [latchSlots, hL]; rfl⟩
  obtain ⟨L, hL⟩ := this n
  rw [frameSlots, hn, hL]
  exact ⟨_, (List.append_assoc ..).symm⟩

/-- From the start of a render, its phase steps and its completion step are the whole frame. -/
theorem run_frame (m : RenderMode) (s : State) (hb : s.busy = true) (hm : activeMode s = some m)
    (hp : s.phase = .idle) (hc : s.ledClk = false) (hr : frameReadable m s = true)
    (hq : QuietFor (25 * (frameSlots m s.cfg).length + 1) s) :
    run (25 * (frameSlots m s.cfg).length + 1) (renderStart m s) =
      .next (sendFrame m (inputsTaken (25 * (frameSlots m s.cfg).length + 1) s)) := by
  obtain ⟨l, hl⟩ := frameSlots_first m s.cfg
  have e : l.length + 1 = (frameSlots m s.cfg).length := by rw [hl]; rfl
  have h1 := run_slots m l (.colour 0 0) (renderStart m s) hb hm rfl hp hc
    ((frameReadable_congr m rfl rfl rfl).trans hr) (by rw [← hl]; exact frameSlots_good m s.cfg)
    (by rw [← hl]; exact frameSlots_chain m s.cfg) (quietFor_mono (s := renderStart m s) hq (by omega))
  rw [← hl, e] at h1
  rw [run_add (show run _ (renderStart m s) = _ from h1), sendFrame]
  obtain ⟨l', hl'⟩ := frameSlots_last m s.cfg
  have hs := foldl_sendSlot_sent m l' (renderStart m s) hc
  have hf : (frameSlots m s.cfg).foldl (sendSlot m) (renderStart m s) =
      sendSlot m (l'.foldl (sendSlot m) (renderStart m s)) (.latch 1) :=
    (congrArg (List.foldl (sendSlot m) (renderStart m s)) hl').trans List.foldl_append
  have hi := foldl_sendSlot_inputsTaken m (25 * (frameSlots m s.cfg).length + 1) (frameSlots m s.cfg)
    (s := renderStart m s) hc
  refine Eq.trans ?_ (congrArg (fun u => Host.Outcome.next (renderFinish u)) hi.symm)
  rw [hf]
  generalize l'.foldl (sendSlot m) (renderStart m s) = u at hs
  rw [sendSlot_eq m u _ hs.clk]
  generalize (frameSlots m s.cfg).length = n at hq
  have hmode : activeMode u = some m := by
    rw [activeMode, fetch, hs.cmdrOp, hs.cmdrArg]
    exact hm
  refine run_one_of_next ((step_of_render (m := m) ?_ ?_ ?_ ?_).trans ?_)
  · exact hs.busy.trans hb
  · rw [← hostInput_rst_of_quiet (quietFor_inputsTaken hq)]
    show ((u.host.drop (25 * n)).headD _).rst = ((s.host.drop (25 * n)).headD _).rst
    rw [hs.host]; rfl
  · simp [advanceSlot, seekSlot]
  · exact hmode
  · refine (renderPhase_latch rfl rfl).trans ((if_pos ?_).trans ?_)
    · simp [advanceSlot, seekSlot]
    · simp [renderFinish, respond, seekSlot, advanceSlot, slotBytes]

/-- The bytes of the slots of a frame, in the order they are sent. -/
theorem map_slotBytes_frameSlots (m : RenderMode) (s : State) :
    ((frameSlots m s.cfg).map fun sl => slotBytes m (seekSlot sl (renderStart m s))) =
      (List.range (m.length s.cfg)).flatMap (fun p =>
        [Color.g, Color.r, Color.b].map fun (component : Color → Byte) =>
          Lanes.ofFn fun k => if lineBit (m.lines s.cfg) k then
            colourByte (component (palRead s (frameIndex m s k p).toNat)) else 0x00) ++
      List.replicate (latchBytes (m.length s.cfg)) (Lanes.ofFn fun _ => 0x00) := by
  unfold frameSlots
  rw [List.map_append]
  congr 1
  · rw [List.map_flatMap]
    have hl := length_range m s.cfg
    simp only [List.flatMap]
    congr 1
    apply List.map_congr_left
    intro p hp
    rw [List.mem_range] at hp
    have hp : (BitVec.ofNat 16 p).toNat = p := by simp; omega
    have e : ∀ k : BitVec 2, slotBytes m (seekSlot (.colour (BitVec.ofNat 16 p) k) (renderStart m s)) =
        Lanes.ofFn fun j => if lineBit (m.lines s.cfg) j then
          colourByte (colourComponent (palRead s (frameIndex m s j p).toNat) k) else 0x00 := by
      intro k
      simp only [slotBytes, seekSlot, renderStart]
      rw [hp]
      cases m <;> rfl
    simp only [positionSlots, List.map_cons, List.map_nil]
    rw [e, e, e]
    rfl
  · show _ = List.replicate (m.latchCount s.cfg) _
    generalize m.latchCount s.cfg = n
    induction n with
    | zero => rfl
    | succ n ih => rw [latchSlots, List.map_cons, ih, List.replicate_succ]; rfl

/-- What a whole frame adds to the wire, in the terms of the render rules. -/
theorem frameWire_eq (m : RenderMode) (s : State) :
    frameWire m s = frameOnWire (m.lines s.cfg) (m.length s.cfg) fun k p =>
      palRead s (frameIndex m s k p).toNat := by
  rw [frameOnWire, ← map_slotBytes_frameSlots, List.flatMap_map]
  rfl

/-- The mask of a single line selects that line. -/
theorem lineBit_shift (j k : Fin 8) : lineBit (1#8 <<< j.val) k = decide (k = j) := by revert j k; decide

end Sys2Proof.Machine
end

