-- ==== Sys2Proof/Laws/PerInstr.lean ====
section
/-!
SUPPORT. For each command, that its textual form is one the assembler takes and that the assembler's
operand word is the encoder's (spec/30_encoding.md R80): the two ways the model lays operands out agree.
-/

namespace Sys2Proof.Laws.Assembly

/-- The textual form of the command is well-formed and assembles to the command's own operand word. -/
def Statement (i : Instr) : Prop := i.WellFormed ∧ i.source.arg = encodeArg i

theorem of_numbers {i : Instr} (h : i.WellFormed) (hn : i.source.arg.toNat = argNat i) : Statement i :=
  ⟨h, BitVec.eq_of_toNat_eq (by rw [hn, toNat_encodeArg])⟩

theorem palSetc (idx r g b : Byte) : Statement (.palSetc idx r g b) := by
  have := idx.isLt; have := r.isLt; have := g.isLt; have := b.isLt
  refine of_numbers ?_ ?_
  · simp [SourceLine.wf_iff, Instr.source, Instr.mnemonic, Instr.operands, Mnemonic.fields]
    omega
  · simp [argNat, SourceLine.arg, Instr.source, Instr.mnemonic, Instr.operands, Mnemonic.fields]
    omega

theorem palSetp (idx : Byte) (rgb : BitVec 24) : Statement (.palSetp idx rgb) := by
  have := idx.isLt; have := rgb.isLt
  refine of_numbers ?_ ?_
  · simp [SourceLine.wf_iff, Instr.source, Instr.mnemonic, Instr.operands, Mnemonic.fields]
    omega
  · simp [argNat, SourceLine.arg, Instr.source, Instr.mnemonic, Instr.operands, Mnemonic.fields]
    omega

theorem palSethsv (idx h s v : Byte) : Statement (.palSethsv idx h s v) := by
  have := idx.isLt; have := h.isLt; have := s.isLt; have := v.isLt
  refine of_numbers ?_ ?_
  · simp [SourceLine.wf_iff, Instr.source, Instr.mnemonic, Instr.operands, Mnemonic.fields]
    omega
  · simp [argNat, SourceLine.arg, Instr.source, Instr.mnemonic, Instr.operands, Mnemonic.fields]
    omega

theorem palCycle (num : BitVec 16) : Statement (.palCycle num) := by
  have := num.isLt
  refine of_numbers ?_ ?_
  · simp [SourceLine.wf_iff, Instr.source, Instr.mnemonic, Instr.operands, Mnemonic.fields]
    omega
  · simp [argNat, SourceLine.arg, Instr.source, Instr.mnemonic, Instr.operands, Mnemonic.fields]
    omega

theorem palGet (idx : Byte) : Statement (.palGet idx) := by
  have := idx.isLt
  refine of_numbers ?_ ?_
  · simp [SourceLine.wf_iff, Instr.source, Instr.mnemonic, Instr.operands, Mnemonic.fields]
    omega
  · simp [argNat, SourceLine.arg, Instr.source, Instr.mnemonic, Instr.operands, Mnemonic.fields]
    omega

theorem fb1Fill (val : Byte) : Statement (.fb1Fill val) := by
  have := val.isLt
  refine of_numbers ?_ ?_
  · simp [SourceLine.wf_iff, Instr.source, Instr.mnemonic, Instr.operands, Mnemonic.fields]
    omega
  · simp [argNat, SourceLine.arg, Instr.source, Instr.mnemonic, Instr.operands, Mnemonic.fields]
    omega

theorem fb1Set (pos : BitVec 16) (val : Byte) : Statement (.fb1Set pos val) := by
  have := pos.isLt; have := val.isLt
  refine of_numbers ?_ ?_
  · simp [SourceLine.wf_iff, Instr.source, Instr.mnemonic, Instr.operands, Mnemonic.fields]
    omega
  · simp [argNat, SourceLine.arg, Instr.source, Instr.mnemonic, Instr.operands, Mnemonic.fields]
    omega

theorem fbmFill (val : Byte) : Statement (.fbmFill val) := by
  have := val.isLt
  refine of_numbers ?_ ?_
  · simp [SourceLine.wf_iff, Instr.source, Instr.mnemonic, Instr.operands, Mnemonic.fields]
    omega
  · simp [argNat, SourceLine.arg, Instr.source, Instr.mnemonic, Instr.operands, Mnemonic.fields]
    omega

theorem fbmSet (strip : Byte) (pos : BitVec 16) (val : Byte) : Statement (.fbmSet strip pos val) := by
  have := strip.isLt; have := pos.isLt; have := val.isLt
  refine of_numbers ?_ ?_
  · simp [SourceLine.wf_iff, Instr.source, Instr.mnemonic, Instr.operands, Mnemonic.fields]
    omega
  · simp [argNat, SourceLine.arg, Instr.source, Instr.mnemonic, Instr.operands, Mnemonic.fields]
    omega

theorem fbmGet (strip : Byte) (pos : BitVec 16) : Statement (.fbmGet strip pos) := by
  have := strip.isLt; have := pos.isLt
  refine of_numbers ?_ ?_
  · simp [SourceLine.wf_iff, Instr.source, Instr.mnemonic, Instr.operands, Mnemonic.fields]
    omega
  · simp [argNat, SourceLine.arg, Instr.source, Instr.mnemonic, Instr.operands, Mnemonic.fields]
    omega

theorem fbmSetxy (x y val : Byte) : Statement (.fbmSetxy x y val) := by
  have := x.isLt; have := y.isLt; have := val.isLt
  refine of_numbers ?_ ?_
  · simp [SourceLine.wf_iff, Instr.source, Instr.mnemonic, Instr.operands, Mnemonic.fields]
    omega
  · simp [argNat, SourceLine.arg, Instr.source, Instr.mnemonic, Instr.operands, Mnemonic.fields]
    omega

theorem fbmGetxy (x y : Byte) : Statement (.fbmGetxy x y) := by
  have := x.isLt; have := y.isLt
  refine of_numbers ?_ ?_
  · simp [SourceLine.wf_iff, Instr.source, Instr.mnemonic, Instr.operands, Mnemonic.fields]
    omega
  · simp [argNat, SourceLine.arg, Instr.source, Instr.mnemonic, Instr.operands, Mnemonic.fields]
    omega

theorem xfRowcol (x y : Byte) : Statement (.xfRowcol x y) := by
  have := x.isLt; have := y.isLt
  refine of_numbers ?_ ?_
  · simp [SourceLine.wf_iff, Instr.source, Instr.mnemonic, Instr.operands, Mnemonic.fields]
    omega
  · simp [argNat, SourceLine.arg, Instr.source, Instr.mnemonic, Instr.operands, Mnemonic.fields]
    omega

theorem xfLatchlen (n : BitVec 16) : Statement (.xfLatchlen n) := by
  have := n.isLt
  refine of_numbers ?_ ?_
  · simp [SourceLine.wf_iff, Instr.source, Instr.mnemonic, Instr.operands, Mnemonic.fields]
    omega
  · simp [argNat, SourceLine.arg, Instr.source, Instr.mnemonic, Instr.operands, Mnemonic.fields]
    omega

theorem renderS : Statement (.renderS) := by
  refine of_numbers ?_ ?_
  · simp [SourceLine.wf_iff, Instr.source, Instr.mnemonic, Instr.operands, Mnemonic.fields]
  · simp [argNat, SourceLine.arg, Instr.source, Instr.mnemonic, Instr.operands, Mnemonic.fields]

theorem renderM : Statement (.renderM) := by
  refine of_numbers ?_ ?_
  · simp [SourceLine.wf_iff, Instr.source, Instr.mnemonic, Instr.operands, Mnemonic.fields]
  · simp [argNat, SourceLine.arg, Instr.source, Instr.mnemonic, Instr.operands, Mnemonic.fields]

end Sys2Proof.Laws.Assembly
end

