-- ==== Sys2Proof/Tests/Slice0.lean ====
section
/-!
SUPPORT. The model's own tests. Every expected value is the spec's: the encodings are those of
spec/30_encoding.md section 7 and R75, the results those of spec/95_test_vectors.md, cited at each test.
Then, for each statement with hypotheses, a concrete instance that meets all of them.
-/

namespace Sys2Proof.Tests

open Sys2Proof Sys2Proof.Machine

/-! ## The check on textual lines (R80): each kind of ill-formed line is refused -/

theorem test_wf_too_few_operands : (SourceLine.mk .palSetc [1, 2, 3]).wf = false := by decide
theorem test_wf_too_many_operands : (SourceLine.mk .renderS [0]).wf = false := by decide
theorem test_wf_no_operand : (SourceLine.mk .palCycle []).wf = false := by decide
theorem test_wf_byte_too_wide : (SourceLine.mk .palGet [256]).wf = false := by decide
theorem test_wf_last_operand_too_wide : (SourceLine.mk .palSetc [1, 2, 3, 256]).wf = false := by decide
theorem test_wf_packed_too_wide : (SourceLine.mk .palSetp [0, 16777216]).wf = false := by decide
theorem test_wf_half_too_wide : (SourceLine.mk .palCycle [65536]).wf = false := by decide
theorem test_wf_position_too_wide : (SourceLine.mk .fbmSet [0, 65536, 0]).wf = false := by decide

/-- R80: an operand that fits but is out of its valid range is not refused. -/
theorem test_wf_out_of_range_fits : (SourceLine.mk .fbmSetxy [40, 0, 1]).wf = true := by decide

theorem test_assemble_refuses : assemble ⟨.xfLatchlen, [65536]⟩ = none := by decide
theorem test_assemble_setxy : assemble ⟨.fbmSetxy, [16, 31, 1]⟩ = some 0x33101F0001 := by decide

/-! ## Decoding: the word of each command, written out from R71 and R75 (section 7) -/

theorem test_decode_palSetc : decode 0x1001102030 = .ok (.palSetc 1 0x10 0x20 0x30) := by decide
theorem test_decode_palSetp : decode 0x11027F0001 = .ok (.palSetp 2 0x7F0001) := by decide
theorem test_decode_palSethsv : decode 0x12036480C8 = .ok (.palSethsv 3 100 128 200) := by decide
theorem test_decode_palCycle : decode 0x1300000100 = .ok (.palCycle 256) := by decide
theorem test_decode_palGet : decode 0x14FF000000 = .ok (.palGet 255) := by decide
theorem test_decode_fb1Fill : decode 0x2000000007 = .ok (.fb1Fill 7) := by decide
theorem test_decode_fb1Set : decode 0x2100007F05 = .ok (.fb1Set 127 5) := by decide
theorem test_decode_fbmFill : decode 0x3000000009 = .ok (.fbmFill 9) := by decide
theorem test_decode_fbmSet : decode 0x3107007F09 = .ok (.fbmSet 7 127 9) := by decide
theorem test_decode_fbmGet : decode 0x32FFFFFF00 = .ok (.fbmGet 255 65535) := by decide
theorem test_decode_fbmSetxy : decode 0x33101F0001 = .ok (.fbmSetxy 16 31 1) := by decide
theorem test_decode_fbmGetxy : decode 0x341F000000 = .ok (.fbmGetxy 31 0) := by decide
theorem test_decode_xfRowcol : decode 0x4005000000 = .ok (.xfRowcol 5 0) := by decide
theorem test_decode_xfLatchlen : decode 0x4100000021 = .ok (.xfLatchlen 33) := by decide
theorem test_decode_renderS : decode 0x5000000000 = .ok .renderS := by decide
theorem test_decode_renderM : decode 0x5100000000 = .ok .renderM := by decide

/-- Section 2.1: a set reserved bit of each format that has one. -/
theorem test_decode_reserved :
    decode 0x1300010003 = .error .reservedBit ∧ decode 0x1400000001 = .error .reservedBit ∧
    decode 0x2000000100 = .error .reservedBit ∧ decode 0x2101000000 = .error .reservedBit ∧
    decode 0x3200000001 = .error .reservedBit ∧ decode 0x3300000100 = .error .reservedBit ∧
    decode 0x3400000001 = .error .reservedBit ∧ decode 0x5180000000 = .error .reservedBit := by decide

/-- Section 2.1: opcodes that are not assigned. -/
theorem test_decode_unassigned :
    decode 0x0000000000 = .error .unassignedOpcode ∧ decode 0x1500000000 = .error .unassignedOpcode ∧
    decode 0x6000000000 = .error .unassignedOpcode ∧ decode 0xFFFFFFFFFF = .error .unassignedOpcode := by decide

theorem test_decodeTableWord : decodeTableWord 40 0x3107007F09 = some (.fbmSet 7 127 9) := by decide
theorem test_decodeTableWord_illegal : decodeTableWord 40 0x1500000000 = none := by decide

/-! ## The instances of spec/95_test_vectors.md -/

/-- The instance of sections 2.2 and P1: `P = 4`, `N1 = 2`; with `NM = 64` and two active lines. -/
def cfg4 : Config :=
  { Config.standard with
    P := 4, N1 := 2, NM := 64, lineMask := 0x05
    P_range := by decide, N1_range := by decide, NM_range := by decide, paletteInit_wf := by decide }

/-- The instance of sections 2.3 and P5: `P = 16`, `N1 = 4`, `NM = 64`, `LINE_MASK = 0x05`. -/
def cfg16 : Config :=
  { Config.standard with
    P := 16, N1 := 4, NM := 64, lineMask := 0x05
    P_range := by decide, N1_range := by decide, NM_range := by decide, paletteInit_wf := by decide }

/-- The instance of section 2.8: `P = 16`, `NM = 128`. -/
def cfg128 : Config :=
  { Config.standard with P := 16, P_range := by decide, paletteInit_wf := by decide }

/-- One pixel on a strip: `P = 2`, `N1 = NM = 1`, lines 0 and 2 active, `SINGLE_LINE = 2`. -/
def cfg1 : Config :=
  { Config.standard with
    P := 2, N1 := 1, NM := 1, lineMask := 0x05, singleLine := 2
    P_range := by decide, N1_range := by decide, NM_range := by decide, paletteInit_wf := by decide }

/-- An implementation with a palette image and a conversion of its own (R12, R13). -/
def cfgOther : Config :=
  { Config.standard with
    P := 4, paletteInit := [(1, ⟨1, 2, 3⟩)], hsv := .other 0
    P_range := by decide, paletteInit_wf := by decide }

/-- What a command or a step leaves, seen through `f`; `none` where it stops. -/
def seen {α : Type} (r : Result) (f : State → α) : Option α :=
  match r with
  | .next t => some (f t)
  | .fault _ => none
  | .refused _ => none

/-- The response and the fault register a command leaves. -/
def answer (t : State) : Byte × BitVec 32 × Byte := (t.rspCode, t.rspData, t.fault)

/-! ## One command, one step -/

/-- Section 2.2, step 1. -/
theorem test_palSetc : seen (exec (.palSetc 0 1 2 3) (State.resetOf cfg4)) (fun t => (answer t, palRead t 0)) =
    some ((0, 0, 0), ⟨2, 1, 3⟩) := by decide

/-- Section 2.2, step 4: `idx = 4 = P`. -/
theorem test_palSetc_fault : seen (exec (.palSetc 4 9 9 9) (State.resetOf cfg4)) (fun t => (answer t, t.pal)) =
    some ((2, 0, 2), []) := by decide

/-- Section 2.2, step 2. -/
theorem test_palSetp : seen (exec (.palSetp 3 0xAABBCC) (State.resetOf cfg4)) (fun t => (answer t, palRead t 3)) =
    some ((0, 0, 0), ⟨0xBB, 0xAA, 0xCC⟩) := by decide

/-- P4, step 5: the entry `(200, 99, 134)`. -/
theorem test_palSethsv : seen (exec (.palSethsv 3 100 128 200) (State.resetOf cfg4))
    (fun t => (answer t, palRead t 3)) = some ((0, 0, 0), ⟨200, 99, 134⟩) := by decide

/-- S2, for an implementation with another conversion. -/
theorem test_palSethsv_achromatic : seen (exec (.palSethsv 3 77 0 200) (State.resetOf cfgOther))
    (fun t => palRead t 3) = some ⟨200, 200, 200⟩ := by decide

/-- The palette of section 2.2 after step 6, one pixel of each kind in `FB1` and one in `FBM`. -/
def coloured : State :=
  { State.resetOf cfg4 with
    pal := [(0, ⟨2, 1, 3⟩), (3, ⟨0xBB, 0xAA, 0xCC⟩)]
    fb1 := [(1, 3)]
    fbm := ⟨[(63, 3)], [], [], [], [], [], [], []⟩ }

/-- Section 2.2, step 7. -/
theorem test_palCycle : seen (exec (.palCycle 4) coloured) (fun t => (answer t, t.pal)) =
    some ((0, 0, 0), [(2, ⟨0xBB, 0xAA, 0xCC⟩), (3, ⟨2, 1, 3⟩)]) := by decide

/-- Section 2.2, step 10: `num = 5 = P + 1`. -/
theorem test_palCycle_fault : seen (exec (.palCycle 5) coloured) (fun t => (answer t, t.pal)) =
    some ((5, 0, 0x10), coloured.pal) := by decide

/-- Section 2.2, step 3. -/
theorem test_palGet : seen (exec (.palGet 3) coloured) answer = some (0, 0x00BBAACC, 0) := by decide

/-- Section 2.2, step 6. -/
theorem test_palGet_fault : seen (exec (.palGet 4) coloured) answer = some (2, 0, 2) := by decide

/-- Section 2.3, step 1. -/
theorem test_fb1Fill : seen (exec (.fb1Fill 7) (State.resetOf cfg16))
    (fun t => (answer t, (List.range 4).map (fb1Read t))) = some ((0, 0, 0), [7, 7, 7, 7]) := by decide

/-- Section 2.3, step 7: `val = 16 = P`. -/
theorem test_fb1Fill_fault : seen (exec (.fb1Fill 16) (State.resetOf cfg16)) (fun t => (answer t, t.fb1)) =
    some ((2, 0, 2), []) := by decide

/-- Section 2.3, step 2. -/
theorem test_fb1Set : seen (exec (.fb1Set 3 15) (State.resetOf cfg16))
    (fun t => (answer t, (List.range 4).map (fb1Read t))) = some ((0, 0, 0), [0, 0, 0, 15]) := by decide

/-- Section 2.3, step 5: the position is reported, not the value. -/
theorem test_fb1Set_fault : seen (exec (.fb1Set 4 16) (State.resetOf cfg16)) (fun t => (answer t, t.fb1)) =
    some ((4, 0, 8), []) := by decide

/-- Section 2.3, step 8, at the ends of the first and the last strip. -/
theorem test_fbmFill : seen (exec (.fbmFill 2) (State.resetOf cfg16))
    (fun t => [t.rspCode, fbmRead t 0 0, fbmRead t 7 63, fbmRead t 7 64, fb1Read t 0]) =
    some [0, 2, 2, 0, 0] := by decide

/-- P5, step 11. -/
theorem test_fbmFill_fault : seen (exec (.fbmFill 16) (State.resetOf cfg16)) answer = some (2, 0, 2) := by decide

/-- Section 2.3, step 9. -/
theorem test_fbmSet : seen (exec (.fbmSet 0 63 15) (State.resetOf cfg16))
    (fun t => (answer t, fbmRead t 0 63, fbmRead t 1 63)) = some ((0, 0, 0), 15, 0) := by decide

/-- Section 2.3, step 15: the strip is reported, not the value. -/
theorem test_fbmSet_fault : seen (exec (.fbmSet 9 0 16) (State.resetOf cfg16)) answer = some (4, 0, 8) := by decide

/-- Section 2.3, step 10, here on the element 3 of `coloured`. -/
theorem test_fbmGet : seen (exec (.fbmGet 0 63) coloured) answer = some (0, 3, 0) := by decide

/-- Section 2.3, step 16. -/
theorem test_fbmGet_fault : seen (exec (.fbmGet 255 65535) coloured) answer = some (4, 0, 8) := by decide

/-- P3, steps 5 and 8: pixel (16, 31) is element 96 of strip 4. -/
theorem test_fbmSetxy : seen (exec (.fbmSetxy 16 31 2) (State.resetOf cfg128))
    (fun t => (answer t, fbmRead t 4 96)) = some ((0, 0, 0), 2) := by decide

/-- Section 2.8: `FBM.SETXY 40, 0, 200` with `P = 16` reports the coordinate, and with `NM = 64` the
geometry. -/
theorem test_fbmSetxy_fault : seen (exec (.fbmSetxy 40 0 200) (State.resetOf cfg128)) answer = some (3, 0, 4) ∧
    seen (exec (.fbmSetxy 40 0 200) (State.resetOf cfg16)) answer = some (6, 0, 0x20) := by decide

/-- P3, step 7. -/
theorem test_fbmGetxy : seen (exec (.fbmGetxy 16 31) (fbmWrite 4 96 2 (State.resetOf cfg128))) answer =
    some (0, 2, 0) := by decide

/-- P5, step 4. -/
theorem test_fbmGetxy_fault : seen (exec (.fbmGetxy 0 0) (State.resetOf cfg16)) answer = some (6, 0, 0x20) := by
  decide

/-- Section 2.4: a row of the table in each fold of each half. -/
theorem test_xfRowcol : ([(0, 31), (4, 0), (11, 7), (12, 31), (16, 0), (23, 1), (27, 30), (31, 0)] :
      List (Byte × Byte)).map (fun x => seen (exec (.xfRowcol x.1 x.2) (State.resetOf cfg128)) State.rspData) =
    [some 0x1F, some 0x3F, some 0x30047, some 0x60, some 0x4007F, some 0x70041, some 0x70021, some 0x70000] := by
  decide

/-- R135: `x = 32` is off the panel. -/
theorem test_xfRowcol_fault : seen (exec (.xfRowcol 32 0) (State.resetOf cfg128)) answer = some (3, 0, 4) := by
  decide

/-- S4. -/
theorem test_xfLatchlen : ([128, 32, 33] : List (BitVec 16)).map
      (fun n => seen (exec (.xfLatchlen n) (State.resetOf cfg4)) answer) =
    [some (0, 4, 0), some (0, 1, 0), some (0, 2, 0)] := by decide

/-- P1: palette and frame buffer before its `RENDER.S`. -/
def program1 : State :=
  { State.resetOf cfg4 with
    pal := [(1, ⟨0x20, 0x10, 0x30⟩), (2, ⟨0x00, 0x7F, 0x01⟩)]
    fb1 := [(0, 1), (1, 2)] }

set_option maxRecDepth 20000 in
/-- P1: the bytes on line 0, none on line 1, 175 entries more on the wire (one stood there after reset). -/
theorem test_renderS : seen (exec .renderS program1)
    (fun t => (lineBytes 0 (wireTrace t), lineBytes 1 (wireTrace t), t.wire.length, pins t)) =
    some ([0xA0, 0x90, 0xB0, 0x80, 0xFF, 0x81, 0x00], [], 176, ⟨false, 0, 0⟩) := by decide

/-- Two strips of one pixel: on strip 0 the entry of P5, `(0x22, 0x11, 0x33)`. -/
def program5 : State :=
  { State.resetOf cfg1 with
    pal := [(1, ⟨0x22, 0x11, 0x33⟩)]
    fbm := ⟨[(0, 1)], [(0, 1)], [], [], [], [], [], []⟩ }

set_option maxRecDepth 20000 in
/-- P5, its position 63, on a strip of one: `A2 91 B3` on line 0, `80 80 80` on line 2, nothing on line 1. -/
theorem test_renderM : seen (exec .renderM program5)
    (fun t => (lineBytes 0 (wireTrace t), lineBytes 1 (wireTrace t), lineBytes 2 (wireTrace t), t.act)) =
    some ([0xA2, 0x91, 0xB3, 0x00], [], [0x80, 0x80, 0x80, 0x00], 0x05) := by decide

/-- Section 2.7: the edges of a slot with `act = 0x05`, `b[0] = 0xA2`, `b[2] = 0x80`. -/
theorem test_slot_edges : edges (slotWire ⟨0xA2, 0, 0x80, 0, 0, 0, 0, 0⟩ 0x05) =
    [(5, 5), (0, 5), (1, 5), (0, 5), (0, 5), (0, 5), (1, 5), (0, 5)] := by decide

/-- Section 2.7: the slot with `act = 0x01` and byte `0xA0`, its first four and its last entry. -/
theorem test_slot_wire : (slotWire ⟨0xA0, 0, 0, 0, 0, 0, 0, 0⟩ 0x01).take 4 =
      [⟨false, 1, 1⟩, ⟨true, 1, 1⟩, ⟨false, 1, 1⟩, ⟨false, 0, 1⟩] ∧
    (slotWire ⟨0xA0, 0, 0, 0, 0, 0, 0, 0⟩ 0x01).getLast? = some ⟨false, 0, 0⟩ := by decide

/-! ## One step of the machine -/

/-- Section 2.8: an unassigned opcode, presented to the block. -/
theorem test_step_illegal : seen (step (State.withFetchWord State.reset 40 0x9912345678))
    (fun t => (answer t, t.busy, t.host)) = some ((1, 0, 1), false, []) := by decide

/-- Section 2.1: `XF.ROWCOL 5, 0` as the first command after reset. -/
theorem test_step_runs_word : seen (step (State.withFetchWord State.reset 40 0x4005000000)) answer =
    some (0, 0x0001003F, 0) := by decide

/-- R36, R15: right after reset, with nothing presented, the block waits. -/
theorem test_step_idle : seen (step State.reset) (fun t => (t.busy, t.rspValid, t.wire)) =
    some (false, false, [⟨false, 0, 0⟩]) := by decide

/-! ## States for the statements with hypotheses -/

/-- A check of the invariant that Lean can evaluate, for a state that is ready or sends in mode `m`. -/
theorem blockInv_of_check (m : RenderMode) (s : State)
    (hm : Memory.wf (paletteInitAt s.cfg) s.cfg.P s.pal ∧ Memory.wf (fun _ => (0 : Byte)) s.cfg.N1 s.fb1 ∧
      ∀ k, Memory.wf (fun _ => (0 : Byte)) s.cfg.NM (s.fbm.get k))
    (hi : (∀ p, p < s.cfg.N1 → (fb1Read s p).toNat < s.cfg.P) ∧
      ∀ k p, p < s.cfg.NM → (fbmRead s k p).toNat < s.cfg.P)
    (hr : s.fault.extractLsb' 6 2 = 0 ∧ s.rspCode = 0 ∧ (s.busy = true → s.rspValid = false) ∧
      (s.busy = false → s.rspValid = false → s.rspCode = 0 ∧ s.rspData = 0))
    (hp : s.ledClk = decide (s.phase = .clockHigh) ∧ (s.ledSel = if s.phase = .idle then 0 else s.act) ∧
      (s.phase ≠ .idle → s.ledData = dataBits s.shift s.act s.bitn.toNat) ∧ s.wire.head? = some (pins s))
    (hs : (s.busy = false → s.stage = .none) ∧ (s.stage = .none → s.phase = .idle ∧ s.ledData = 0))
    (ha : s.stage ≠ .none → activeMode s = some m ∧ s.act = m.lines s.cfg ∧
      (s.stage = .payload → s.pos.toNat < m.length s.cfg ∧ s.comp.toNat < 3) ∧
      (s.stage = .latch → s.lcnt.toNat ≤ m.latchCount s.cfg) ∧
      (s.phase ≠ .idle → s.shift = slotBytes m s) ∧
      (s.stage = .latch → s.phase ≠ .idle → 1 ≤ s.lcnt.toNat) ∧
      (s.stage = .latch → s.phase = .idle → s.lcnt.toNat < m.latchCount s.cfg → s.ledData = 0)) :
    BlockInv s :=
  ⟨⟨hm.1, hm.2.1, hm.2.2⟩, ⟨hi.1, hi.2⟩, ⟨hr.1, .inl hr.2.1, hr.2.2.1, hr.2.2.2⟩,
    ⟨hp.1, hp.2.1, hp.2.2.1, hp.2.2.2⟩,
    ⟨hs.1, hs.2, fun h => ⟨m, (ha h).1, (ha h).2.1, (ha h).2.2.1, (ha h).2.2.2.1, (ha h).2.2.2.2.1,
      (ha h).2.2.2.2.2.1, (ha h).2.2.2.2.2.2⟩⟩⟩

/-- A command or a step that does not stop has a next state. -/
theorem next_of_seen {r : Result} (h : seen r (fun _ => ()) = some ()) : ∃ t, r = .next t := by
  cases r with
  | next t => exact ⟨t, rfl⟩
  | fault f => cases h
  | refused f => cases h

/-- `program5` with `RENDER.M` accepted phase by phase, after `n` more steps of the block. -/
def sending (n : Nat) : State :=
  match run n (accepted 0x51 0 [] program5) with
  | .next t => t
  | .fault _ => program5
  | .refused _ => program5

theorem coloured_memoriesOk : MemoriesOk coloured := ⟨by decide, by decide, by decide⟩

theorem program5_inv : BlockInv program5 :=
  blockInv_of_check .multi _ (by decide) (by decide) (by decide) (by decide) (by decide) (by decide)

/-- `coloured` with the pins and the response of the state it stands for. -/
theorem coloured_inv : BlockInv coloured :=
  blockInv_of_check .single _ (by decide) (by decide) (by decide) (by decide) (by decide) (by decide)

set_option maxRecDepth 20000 in
/-- After 1 step the render has begun (`IDLE`, `PAYLOAD`); after 2, 3, 4 it is in the phases of bit 7. -/
theorem sending_inv_first : BlockInv (sending 1) ∧ BlockInv (sending 2) ∧ BlockInv (sending 3) ∧
    BlockInv (sending 4) :=
  ⟨blockInv_of_check .multi _ (by decide) (by decide) (by decide) (by decide) (by decide) (by decide),
    blockInv_of_check .multi _ (by decide) (by decide) (by decide) (by decide) (by decide) (by decide),
    blockInv_of_check .multi _ (by decide) (by decide) (by decide) (by decide) (by decide) (by decide),
    blockInv_of_check .multi _ (by decide) (by decide) (by decide) (by decide) (by decide) (by decide)⟩

set_option maxRecDepth 20000 in
/-- After 25 steps the render is at `CLOCK_LOW` of bit 0, after 26 at the red component; after 76 steps
before its latch byte. -/
theorem sending_inv_later : BlockInv (sending 25) ∧ BlockInv (sending 26) ∧ BlockInv (sending 76) :=
  ⟨blockInv_of_check .multi _ (by decide) (by decide) (by decide) (by decide) (by decide) (by decide),
    blockInv_of_check .multi _ (by decide) (by decide) (by decide) (by decide) (by decide) (by decide),
    blockInv_of_check .multi _ (by decide) (by decide) (by decide) (by decide) (by decide) (by decide)⟩

/-! ## Instances of the hypotheses of the statements

One theorem for each statement with hypotheses (and for each of its clauses), at the boundaries of the
ranges. -/

theorem witness_EncodeOfDecodeIsTheWord : ∃ w i, decode w = .ok i := ⟨0x33101F0001, _, test_decode_fbmSetxy⟩

theorem witness_OperandsAreTheFieldsOfTheWord : ∃ w i, decode w = .ok i := ⟨0x32FFFFFF00, _, test_decode_fbmGet⟩

theorem witness_AssemblerRefusesOnlyWhatDoesNotFit :
    assemble ⟨.palCycle, [65535]⟩ = some 0x130000FFFF ∧ assemble ⟨.palCycle, [65536]⟩ = none ∧
    assemble ⟨.palCycle, [1, 1]⟩ = none := by decide

theorem witness_ResetStateHoldsTheTabledValues : ∃ c s, s = State.resetOf c ∧ c.P = 4 := ⟨cfg4, _, rfl, rfl⟩

theorem witness_ResetGivesTheResetState :
    (hostInput { sending 3 with host := [resetInput] }).rst = true ∧ (sending 3).busy = true := by decide

theorem witness_ResetForgetsThePast : ∃ s s' t t' : State, s.cfg = s'.cfg ∧ (hostInput s).rst = true ∧
    (hostInput s').rst = true ∧ step s = .next t ∧ step s' = .next t' ∧ s.pal ≠ s'.pal :=
  ⟨{ coloured with host := [resetInput] }, { State.resetOf cfg4 with host := [resetInput] }, _, _, rfl, rfl, rfl,
    rfl, rfl, by decide⟩

theorem witness_StepRunsTheDecodedCommand :
    { coloured with host := [offer true 0x14 0x03000000] }.busy = false ∧
    { coloured with host := [offer true 0x14 0x03000000] }.host = offer true 0x14 0x03000000 :: [] ∧
    decode (0x14#8 ++ 0x03000000#32) = .ok (.palGet 3) := by decide

theorem witness_AcceptanceWritesTheCommandRegister :
    coloured.busy = false ∧ { coloured with host := [offer false 0x14 0x03000000] }.host =
      offer false 0x14 0x03000000 :: [] ∧ decode (0x14#8 ++ 0x03000000#32) = .ok (.palGet 3) ∧
    Instr.palGet 3 ≠ .renderS ∧ Instr.palGet 3 ≠ .renderM ∧ coloured.stage = .none ∧
    (([] : List HostInput).headD HostInput.idle).rst = false := by decide

theorem witness_BusyBlockIgnoresTheCommandPort :
    (sending 3).busy = true ∧ (offer true 0x14 0).rst = false ∧ HostInput.idle.rst = false := by decide

/-- Both kinds of illegal word: an unassigned opcode, a reserved bit. -/
theorem witness_IllegalWordsRaiseIllegalCommand :
    (∀ m : Mnemonic, (0x15#8 ++ 0#32) &&& tableMask m ≠ tableMatch m) ∧
    (∀ m : Mnemonic, (0x14#8 ++ 1#32) &&& tableMask m ≠ tableMatch m) ∧
    coloured.busy = false ∧ (accepted 0x15 0 [] coloured).busy = true ∧
    (accepted 0x15 0 [] coloured).stage = .none ∧ (accepted 0x15 0 [] coloured).cmdrOp = 0x15 ∧
    (accepted 0x15 0 [] coloured).cmdrArg = 0 ∧ (hostInput (accepted 0x15 0 [] coloured)).rst = false :=
  ⟨fun m => by cases m <;> decide, fun m => by cases m <;> decide, rfl, rfl, rfl, rfl, rfl, rfl⟩

theorem witness_ReadyBlockWaitsForACommand :
    coloured.busy = false ∧ (hostInput coloured).rst = false ∧ (hostInput coloured).cmdValid = false := by decide

/-- `exec` answers a next state: of a command, of a fault. Also for `FaultRegisterHasNoInfluence`,
`MemoriesAreIndependent` and `OnlyRendersMoveThePins`. -/
theorem witness_EveryCommandAnswersOnce :
    (∃ t, exec (.palSetc 3 1 2 3) coloured = .next t) ∧ (∃ t, exec (.palSetc 4 1 2 3) coloured = .next t) :=
  ⟨next_of_seen (by decide), next_of_seen (by decide)⟩

set_option maxRecDepth 20000 in
/-- `exec` answers a next state: of the renders. Also for `RenderAddsTheCountedEntries` and
`InactiveLinesStayDark`. -/
theorem witness_RenderNext :
    (∃ t, exec .renderS program5 = .next t) ∧ (∃ t, exec .renderM program5 = .next t) ∧
    program5.ledClk = false :=
  ⟨next_of_seen (by decide), next_of_seen (by decide), rfl⟩

/-- Each cause that operands can raise, at the first value that raises it, and a command without one. -/
theorem witness_CommandReportsItsFirstFaultOnly :
    expectedFault cfg16 (.palGet 16) = some .paletteIndexOutOfBounds ∧
    expectedFault cfg16 (.palCycle 0) = some .cycleCountOutOfBounds ∧
    expectedFault cfg16 (.palCycle 17) = some .cycleCountOutOfBounds ∧
    expectedFault cfg16 (.fb1Set 4 16) = some .positionOutOfBounds ∧
    expectedFault cfg16 (.fbmGet 8 0) = some .positionOutOfBounds ∧
    expectedFault cfg16 (.fbmSetxy 40 0 200) = some .geometryUnsupported ∧
    expectedFault cfg128 (.fbmSetxy 32 0 200) = some .coordinateOutOfBounds ∧
    expectedFault cfg128 (.fbmSetxy 31 31 16) = some .paletteIndexOutOfBounds ∧
    expectedFault coloured.cfg (.palGet 3) = none ∧ (∃ t, exec (.palGet 3) coloured = .next t) :=
  ⟨by decide, by decide, by decide, by decide, by decide, by decide, by decide, by decide, by decide,
    next_of_seen (by decide)⟩

theorem witness_FaultBitsAreSticky : ∃ s t : State, (hostInput s).rst = false ∧ step s = .next t ∧
    s.fault.getLsbD 1 = true := by
  obtain ⟨t, h⟩ := next_of_seen (r := step { coloured with fault := 2, host := [offer true 0x14 0] }) (by decide)
  exact ⟨_, t, by decide, h, by decide⟩

/-- Both clauses of `PalSetcStoresTheColour`, `PalSetpStoresThePackedColour`,
`PalSethsvStoresTheConvertedColour`, `PalGetAnswersTheEntry` and `PalGetAfterPalSetcReturnsWireOrder`:
`idx = 3 = P - 1` and `idx = 4 = P`. -/
theorem witness_palette : MemoriesOk coloured ∧ (3 : Byte).toNat < coloured.cfg.P ∧
    coloured.cfg.P ≤ (4 : Byte).toNat := ⟨coloured_memoriesOk, by decide, by decide⟩

theorem witness_PalCycleRotatesTheFirstEntries : MemoriesOk coloured ∧
    (1 ≤ (1 : BitVec 16).toNat ∧ (1 : BitVec 16).toNat ≤ coloured.cfg.P) ∧
    (1 ≤ (4 : BitVec 16).toNat ∧ (4 : BitVec 16).toNat ≤ coloured.cfg.P) ∧
    (0 : BitVec 16).toNat < 1 ∧ coloured.cfg.P < (5 : BitVec 16).toNat ∧ (1 : BitVec 16) ≠ 0 :=
  ⟨coloured_memoriesOk, by decide, by decide, by decide, by decide, by decide⟩

theorem witness_PalCycleHasPeriodK : MemoriesOk coloured ∧ 1 ≤ (3 : BitVec 16).toNat ∧
    (3 : BitVec 16).toNat ≤ coloured.cfg.P := ⟨coloured_memoriesOk, by decide, by decide⟩

/-- The clauses on reserved bits of every statement that has one: a reserved field that is not 0. -/
theorem witness_reserved : (1 : BitVec 24) ≠ 0 ∧ (0x80 : Byte) ≠ 0 ∧ (0x8000 : BitVec 16) ≠ 0 ∧
    (1 : BitVec 32) ≠ 0 := by decide

/-- Both clauses of `Fb1FillSetsEveryElement` and `FbmFillSetsEveryElement`: `val = 3 = P - 1` and
`val = 4 = P`. -/
theorem witness_fills : MemoriesOk coloured ∧ (3 : Byte).toNat < coloured.cfg.P ∧
    coloured.cfg.P ≤ (4 : Byte).toNat := ⟨coloured_memoriesOk, by decide, by decide⟩

/-- The three clauses, at `pos = N1 - 1`, `pos = N1`, `val = P`. -/
theorem witness_Fb1SetSetsOneElement : MemoriesOk coloured ∧
    ((1 : BitVec 16).toNat < coloured.cfg.N1 ∧ (3 : Byte).toNat < coloured.cfg.P) ∧
    coloured.cfg.N1 ≤ (2 : BitVec 16).toNat ∧ coloured.cfg.P ≤ (4 : Byte).toNat :=
  ⟨coloured_memoriesOk, by decide, by decide, by decide⟩

/-- The clauses of this statement and of `FbmGetAnswersTheElement`, at `strip = 7`, `strip = 8`, `pos = NM - 1`, `pos = NM`. -/
theorem witness_FbmSetSetsOneElement : MemoriesOk coloured ∧
    ((7 : Byte).toNat < 8 ∧ (63 : BitVec 16).toNat < coloured.cfg.NM ∧ (3 : Byte).toNat < coloured.cfg.P) ∧
    8 ≤ (8 : Byte).toNat ∧ coloured.cfg.NM ≤ (64 : BitVec 16).toNat ∧ coloured.cfg.P ≤ (4 : Byte).toNat ∧
    (7 : Fin 8).val = (7 : Byte).toNat :=
  ⟨coloured_memoriesOk, by decide, by decide, by decide, by decide, by decide⟩

/-- The clauses of `XfRowcolAnswersThePlace`, `FbmSetxyStoresAtThePlace`, `FbmGetxyAnswersTheElement` and
`PixelAccessIsPlaceAccess`: the panel's last pixel, the first beside it, another geometry, a value that
is no palette index. -/
theorem witness_pixels : MemoriesOk (State.resetOf cfg128) ∧
    ((State.resetOf cfg128).cfg.NM = 128 ∧ (31 : Byte).toNat < 32) ∧ (State.resetOf cfg16).cfg.NM ≠ 128 ∧
    32 ≤ (32 : Byte).toNat ∧ (15 : Byte).toNat < (State.resetOf cfg128).cfg.P ∧
    (State.resetOf cfg128).cfg.P ≤ (16 : Byte).toNat ∧
    (7 : Fin 8).val = (rowcol (31 : Byte).toNat (31 : Byte).toNat).1 :=
  ⟨memoriesOk_resetOf _, by decide, by decide, by decide, by decide, by decide, by decide⟩

theorem witness_RenderSSendsTheFrame : program5.ledClk = false ∧
    ∀ p < program5.cfg.N1, (fb1Read program5 p).toNat < program5.cfg.P := by decide

theorem witness_RenderMSendsTheFrames : program5.ledClk = false ∧
    (∀ k, lineBit program5.cfg.lineMask k = true → ∀ p < program5.cfg.NM,
      (fbmRead program5 k p).toNat < program5.cfg.P) ∧ lineBit program5.cfg.lineMask 2 = true := by decide

theorem witness_FrameBytesAreColourThenLatch : 0 < 33 ∧ 2 < 3 ∧ 6 < 7 ∧ 3 * 33 ≤ 100 ∧
    100 < 3 * 33 + (33 + 31) / 32 := by decide

theorem witness_InactiveLinesStayDark : program5.ledClk = false ∧ (0 : Fin 8) ≠ program5.cfg.singleLine ∧
    lineBit program5.cfg.lineMask 1 = false := by decide

/-- The buffers that differ: another `FBM`, another `FB1`, another strip 1, whose line is not active. -/
theorem witness_RenderReadsItsOwnBufferOnly : (∃ t, exec .renderS program5 = .next t) ∧
    (∃ t, exec .renderM program5 = .next t) ∧
    (∀ k, lineBit program5.cfg.lineMask k = true → (program5.fbm.set 1 []).get k = program5.fbm.get k) ∧
    program5.fbm.set 1 [] ≠ program5.fbm :=
  ⟨witness_RenderNext.1, witness_RenderNext.2.1, by decide, by decide⟩

/-- Index 2 = P in both buffers. -/
theorem witness_RenderStopsOnAnIndexOutsideThePalette :
    (0 < cfg1.N1 ∧ cfg1.P ≤ (fb1Read { program5 with fb1 := [(0, 2)] } 0).toNat) ∧
    (0 < cfg1.NM ∧ lineBit cfg1.lineMask 2 = true ∧
      cfg1.P ≤ (fbmRead { program5 with fbm := program5.fbm.set 2 [(0, 2)] } 2 0).toNat) := by decide

theorem witness_SlotSendsOneByteOnEveryActiveLine : program5.ledClk = false := rfl

set_option maxRecDepth 20000 in
/-- Every clause of the phase statement: the phases of a render under way. -/
theorem witness_PhaseStepsFollowTheStateMachine :
    (BlockInv (sending 2) ∧ (sending 2).stage ≠ .none ∧ (hostInput (sending 2)).rst = false ∧
      (sending 2).phase = .setData) ∧
    (BlockInv (sending 3) ∧ (sending 3).stage ≠ .none ∧ (sending 3).phase = .clockHigh) ∧
    (BlockInv (sending 4) ∧ (sending 4).stage ≠ .none ∧ (sending 4).phase = .clockLow ∧
      0 < (sending 4).bitn.toNat) ∧
    (BlockInv (sending 25) ∧ (sending 25).stage ≠ .none ∧ (sending 25).phase = .clockLow ∧
      (sending 25).bitn.toNat = 0) ∧
    (BlockInv (sending 1) ∧ (sending 1).stage = .payload ∧ (sending 1).phase = .idle) ∧
    (BlockInv (sending 76) ∧ (sending 76).stage = .latch ∧ (sending 76).phase = .idle ∧
      (sending 76).lcnt ≠ 0) :=
  ⟨⟨sending_inv_first.2.1, by decide, by decide, by decide⟩, ⟨sending_inv_first.2.2.1, by decide, by decide⟩,
    ⟨sending_inv_first.2.2.2, by decide, by decide, by decide⟩,
    ⟨sending_inv_later.1, by decide, by decide, by decide⟩, ⟨sending_inv_first.1, by decide, by decide⟩,
    ⟨sending_inv_later.2.2, by decide, by decide, by decide⟩⟩

theorem witness_PhaseByPhaseIsTheWholeCommand : BlockInv program5 ∧ program5.busy = false := ⟨program5_inv, rfl⟩

/-- At the start, inside and at the end of the frame of four slots. -/
theorem witness_ResetInsideARenderCutsTheFrame : BlockInv program5 ∧ program5.busy = false ∧
    0 ≤ (frameWire .multi program5).length ∧ (frameWire .multi program5).length = 100 :=
  ⟨program5_inv, rfl, Nat.zero_le _, by decide⟩

theorem witness_BusyBlockCompletes : BlockInv (sending 3) ∧ (sending 3).busy = true ∧
    ∀ e ∈ (sending 3).host, e.rst = false := ⟨sending_inv_first.2.2.1, by decide, by decide⟩

theorem witness_ParametersNeverChange : ∃ t, step coloured = .next t := next_of_seen (by decide)

/-- A step of a render under way and an idle step. -/
theorem witness_PinsAreStableAroundTheClock :
    (BlockInv (sending 2) ∧ (hostInput (sending 2)).rst = false ∧ ∃ t, step (sending 2) = .next t) ∧
    (BlockInv coloured ∧ (hostInput coloured).rst = false ∧ ∃ t, step coloured = .next t) :=
  ⟨⟨sending_inv_first.2.1, by decide, next_of_seen (by decide)⟩, coloured_inv, by decide, next_of_seen (by decide)⟩

theorem witness_EveryStepKeepsTheInvariant : BlockInv coloured ∧ ∃ t, step coloured = .next t :=
  ⟨coloured_inv, next_of_seen (by decide)⟩

theorem witness_TheWireRestsBetweenCommands : BlockInv (sending 25) ∧ (∃ t, step (sending 25) = .next t) ∧
    BlockInv coloured ∧ coloured.busy = false :=
  ⟨sending_inv_later.1, next_of_seen (by decide), coloured_inv, rfl⟩

theorem witness_NoStepStops : BlockInv (sending 25) := sending_inv_later.1

end Sys2Proof.Tests
end

/-!
PROOF. What a step of the block can do, said once: how an executed command ends, how a render moves in one
phase step, and the cases of a whole step, each guard included. Then what those cases leave unchanged
from every state.
-/

namespace Sys2Proof.Machine

/-- How an executed command ends: with a fault, with an answer, or with a frame sent. -/
inductive CommandEnd (s : State) : State → Prop where
  | faulted (c : FaultCause) : CommandEnd s (raise c s)
  | answered (i : Instr) (h : expectedFault s.cfg i = none) :
      CommandEnd s (respond (answerOf i s) (memoryEffect i s))
  | rendered (m : RenderMode) (h : frameReadable m s = true) : CommandEnd s (sendFrame m s)

theorem exec_commandEnd {i : Instr} {s t : State} (h : exec i s = .next t) : CommandEnd s t := by
  obtain ⟨c, -, rfl⟩ | ⟨hf, -, -, rfl⟩ | ⟨m, -, hr, rfl⟩ := exec_cases h
  · exact .faulted c
  · exact .answered i hf
  · exact .rendered m hr

theorem runCommand_commandEnd {s t : State} (h : runCommand s = .next t) : CommandEnd s t := by
  unfold runCommand at h
  split at h
  · cases h; exact .faulted .illegalCommand
  · exact exec_commandEnd h

/-- How a render in progress moves in one phase step: the transitions of spec/44_bit_transmit.md R174, and the
completion of the command. -/
inductive RenderMove (m : RenderMode) (s : State) : State → Prop where
  | begin (hp : s.phase = .idle) (h : SlotReady m s) : RenderMove m s (beginSlot m s)
  | finish (hp : s.phase = .idle) (hs : s.stage = .latch) (hl : s.lcnt = 0) : RenderMove m s (renderFinish s)
  | clockHigh (hp : s.phase = .setData) : RenderMove m s (phaseClockHigh s)
  | clockLow (hp : s.phase = .clockHigh) : RenderMove m s (phaseClockLow s)
  | nextBit (hp : s.phase = .clockLow) (hn : s.bitn ≠ 0) : RenderMove m s (phaseSetData (s.bitn.toNat - 1) s)
  | nextSlot (hp : s.phase = .clockLow) (hn : s.bitn = 0) : RenderMove m s (advanceSlot m (phaseIdle s))

theorem renderPhase_renderMove {m : RenderMode} {s t : State} (h : renderPhase m s = .next t) :
    RenderMove m s t := by
  unfold renderPhase at h
  cases hp : s.phase with
  | idle =>
    cases hs : s.stage with
    | none => simp [hp, hs] at h
    | payload =>
      simp only [hp, hs] at h
      split_ifs at h with h1 h2
      cases h
      exact .begin hp (by simpa [SlotReady, hs] using And.intro h1 h2)
    | latch =>
      simp only [hp, hs] at h
      split_ifs at h with hl <;> cases h
      · exact .finish hp hs hl
      · exact .begin hp (by simpa [SlotReady, hs] using hl)
  | setData => simp only [hp] at h; cases h; exact .clockHigh hp
  | clockHigh => simp only [hp] at h; cases h; exact .clockLow hp
  | clockLow =>
    simp only [hp] at h
    split_ifs at h with hn <;> cases h
    · exact .nextSlot hp hn
    · exact .nextBit hp hn

/-- What a step of the block can do with the values `e` on its input ports, `s` being the state after they
are taken (spec/10_state.md R35, spec/70_reset_and_hazards.md R220). -/
inductive BlockMove (e : HostInput) (s : State) : State → Prop where
  | reset (hr : e.rst = true) : BlockMove e s (resetBlock s)
  | wait (hr : e.rst = false) (hb : s.busy = false) (hv : e.cmdValid = false) : BlockMove e s s
  | accept (hr : e.rst = false) (hb : s.busy = false) : BlockMove e s (accept e.cmdOp e.cmdArg s)
  | whole {t : State} (hr : e.rst = false) (hb : s.busy = false)
      (h : CommandEnd (Machine.accept e.cmdOp e.cmdArg s) t) : BlockMove e s t
  | execute {t : State} (hr : e.rst = false) (hb : s.busy = true) (hs : s.stage = .none)
      (h : CommandEnd s t) : BlockMove e s t
  | start (m : RenderMode) (hr : e.rst = false) (hb : s.busy = true) (hs : s.stage = .none)
      (hm : activeMode s = some m) : BlockMove e s (renderStart m s)
  | phase {t : State} (m : RenderMode) (hr : e.rst = false) (hb : s.busy = true) (hs : s.stage ≠ .none)
      (hm : activeMode s = some m) (h : RenderMove m s t) : BlockMove e s t

theorem blockStep_of_command {s : State} (hs : s.stage = .none) (hm : activeMode s = none) :
    blockStep s = runCommand s := by simp [blockStep, hs, hm]

theorem blockStep_of_start {m : RenderMode} {s : State} (hs : s.stage = .none) (hm : activeMode s = some m) :
    blockStep s = .next (renderStart m s) := by simp [blockStep, hs, hm]

theorem blockStep_of_no_render {s : State} (hs : s.stage ≠ .none) (hm : activeMode s = none) :
    blockStep s = .fault .sequencerState := by simp [blockStep, hm]

theorem blockStep_of_render {m : RenderMode} {s : State} (hs : s.stage ≠ .none) (hm : activeMode s = some m) :
    blockStep s = renderPhase m s := by simp [blockStep, hm]

theorem blockStep_blockMove {s t : State} (e : HostInput) (hr : e.rst = false) (hb : s.busy = true)
    (h : blockStep s = .next t) : BlockMove e s t := by
  by_cases hs : s.stage = .none
  · cases hm : activeMode s with
    | none => exact .execute hr hb hs (runCommand_commandEnd (blockStep_of_command hs hm ▸ h))
    | some m => rw [blockStep_of_start hs hm] at h; cases h; exact .start m hr hb hs hm
  · cases hm : activeMode s with
    | none => rw [blockStep_of_no_render hs hm] at h; cases h
    | some m => exact .phase m hr hb hs hm (renderPhase_renderMove (blockStep_of_render hs hm ▸ h))

theorem step_blockMove {s t : State} (h : step s = .next t) : BlockMove (hostInput s) (consumeInput s) t := by
  unfold step machineStep reactTo at h
  split_ifs at h with hr hb hv hw
  · cases h; exact .reset hr
  · exact blockStep_blockMove _ (by simpa using hr) hb h
  · exact .whole (by simpa using hr) (by simpa using hb) (runCommand_commandEnd h)
  · cases h; exact .accept (by simpa using hr) (by simpa using hb)
  · cases h
    rw [Bool.not_eq_true] at hr hb
    rw [cmdReady, hb, hr] at hv
    exact .wait hr hb (by simpa using hv)

/-- The parameters, the memories and `FAULT` are as before. -/
structure StoreKept (s t : State) : Prop where
  cfg : t.cfg = s.cfg
  pal : t.pal = s.pal
  fb1 : t.fb1 = s.fb1
  fbm : t.fbm = s.fbm
  fault : t.fault = s.fault

/-- Sending a slot touches no memory and answers nothing, whatever the pins are (spec/43_protocol_driver.md R159). -/
theorem sendSlot_keeps (m : RenderMode) (s : State) (sl : Slot) :
    StoreKept s (sendSlot m s sl) ∧ (sendSlot m s sl).responses = s.responses := by
  cases sl <;> refine ⟨⟨?_, ?_, ?_, ?_, ?_⟩, ?_⟩ <;> simp [sendSlot, txSlot, txBits, seekSlot]

theorem foldl_sendSlot_keeps (m : RenderMode) (l : List Slot) (s : State) :
    StoreKept s (l.foldl (sendSlot m) s) ∧ (l.foldl (sendSlot m) s).responses = s.responses := by
  induction l generalizing s with
  | nil => exact ⟨⟨rfl, rfl, rfl, rfl, rfl⟩, rfl⟩
  | cons sl l ih =>
    obtain ⟨h1, r1⟩ := sendSlot_keeps m s sl
    obtain ⟨h2, r2⟩ := ih (sendSlot m s sl)
    exact ⟨⟨h2.cfg.trans h1.cfg, h2.pal.trans h1.pal, h2.fb1.trans h1.fb1, h2.fbm.trans h1.fbm,
      h2.fault.trans h1.fault⟩, r2.trans r1⟩

/-- A whole frame touches no memory and gives the one response of its completion. -/
theorem sendFrame_keeps (m : RenderMode) (s : State) :
    StoreKept s (sendFrame m s) ∧ (sendFrame m s).responses = ⟨0, 0⟩ :: s.responses := by
  obtain ⟨h, hr⟩ := foldl_sendSlot_keeps m (frameSlots m s.cfg) (renderStart m s)
  exact ⟨⟨h.cfg, h.pal, h.fb1, h.fbm, h.fault⟩, congrArg (List.cons _) hr⟩

/-- The advance after a slot moves the place registers and nothing else. -/
theorem advanceSlot_place (m : RenderMode) (s : State) :
    ∃ g p k n, advanceSlot m s = { s with stage := g, pos := p, comp := k, lcnt := n } := by
  unfold advanceSlot
  cases hs : s.stage with
  | payload => dsimp only; split_ifs <;> exact ⟨_, _, _, _, rfl⟩
  | latch => exact ⟨_, _, _, _, rfl⟩
  | none => exact ⟨_, _, _, _, rfl⟩

/-! ### What no step changes -/

theorem CommandEnd.cfg_eq {s t : State} (h : CommandEnd s t) : t.cfg = s.cfg := by
  cases h with
  | faulted c => rfl
  | answered i _ => exact memoryEffect_cfg i s
  | rendered m _ => exact (sendFrame_keeps m s).1.cfg

/-- No phase step of a render touches a memory, a parameter or `FAULT` (spec/43_protocol_driver.md R159). -/
theorem RenderMove.keeps {m : RenderMode} {s t : State} (h : RenderMove m s t) : StoreKept s t := by
  cases h with
  | nextSlot =>
    obtain ⟨_, _, _, _, h⟩ := advanceSlot_place m (phaseIdle s)
    rw [h]; exact ⟨rfl, rfl, rfl, rfl, rfl⟩
  | _ => exact ⟨rfl, rfl, rfl, rfl, rfl⟩

/-- Settles O55: no case of a step writes the parameters. -/
theorem parametersNeverChange : Obligations.ParametersNeverChange := by
  intro s t h
  cases step_blockMove h with
  | whole _ _ h => exact h.cfg_eq
  | execute _ _ _ h => exact h.cfg_eq
  | phase _ _ _ _ _ h => exact h.keeps.cfg
  | _ => rfl

theorem CommandEnd.fault_sticky {s t : State} (h : CommandEnd s t) {j : Nat}
    (hj : s.fault.getLsbD j = true) : t.fault.getLsbD j = true := by
  cases h with
  | faulted c => rw [raise_fault, getLsbD_setFaultBit, hj]; rfl
  | answered i _ => rwa [respond_fault, (memoryEffect_outside i s).2.1]
  | rendered m _ => rwa [(sendFrame_keeps m s).1.fault]

/-- Settles O17: only the fault entry writes `FAULT` without a reset, and it only sets a bit. -/
theorem faultBitsAreSticky : Obligations.FaultBitsAreSticky := by
  intro s t j hr h hj
  cases step_blockMove h with
  | reset hr' => rw [hr] at hr'; cases hr'
  | whole _ _ h => exact h.fault_sticky hj
  | execute _ _ _ h => exact h.fault_sticky hj
  | phase _ _ _ _ _ h =>
    rw [h.keeps.fault]; exact hj
  | _ => exact hj

/-! ### Single steps and single responses -/

/-- Settles O15: each way a command can end gives one response, the one in the response registers. -/
theorem everyCommandAnswersOnce : Obligations.EveryCommandAnswersOnce := by
  intro i s t h
  cases exec_commandEnd h with
  | faulted c => exact ⟨rfl, rfl, rfl⟩
  | answered i _ => exact ⟨rfl, rfl, congrArg (List.cons _) (memoryEffect_outside i s).2.2⟩
  | rendered m _ => exact ⟨rfl, rfl, (sendFrame_keeps m s).2⟩

/-- Settles O12: a busy block without reset takes its block step, which reads the inputs left over only. -/
theorem busyBlockIgnoresTheCommandPort : Obligations.BusyBlockIgnoresTheCommandPort := by
  intro s e e' rest hb he he'
  rw [step_of_busy (s := { s with host := e :: rest }) hb he,
    step_of_busy (s := { s with host := e' :: rest }) hb he']
  rfl

/-- A ready block to which nothing is presented only takes the input of the step. -/
theorem step_of_nothing_presented {s : State} (hb : s.busy = false) (hr : (hostInput s).rst = false)
    (hv : (hostInput s).cmdValid = false) : step s = .next (consumeInput s) := by
  simp [step, machineStep, reactTo, hb, hr, hv]

/-- Settles O14: taking the input is all a ready block does with nothing presented. -/
theorem readyBlockWaitsForACommand : Obligations.ReadyBlockWaitsForACommand :=
  fun _ => step_of_nothing_presented

/-! ### The reset state -/

theorem fbmRead_resetOf (c : Config) (k : Fin 8) (p : Nat) : fbmRead (State.resetOf c) k p = 0 := by
  fin_cases k <;> rfl

/-- Settles O7: every register and every listed element of the reset state is written out in the model. -/
theorem resetStateHoldsTheTabledValues : Obligations.ResetStateHoldsTheTabledValues := by
  refine ⟨?_, rfl, fun _ => rfl⟩
  rintro c _ rfl
  have shift : ∀ k, (State.resetOf c).shift.get k = 0 := fun k => by fin_cases k <;> rfl
  exact ⟨fun _ => rfl, fun _ => rfl, fbmRead_resetOf c, rfl, rfl, rfl, rfl, rfl, rfl, rfl, rfl, rfl, rfl, rfl,
    rfl, rfl, rfl, shift, rfl, rfl, rfl⟩

end Sys2Proof.Machine

/-!
PROOF. The invariant holds after reset and every case of a step keeps it: each of its five parts first, by the
operations that touch it, then the three ways the block moves (a command ends, a render starts, a render
moves by one phase).
-/

namespace Sys2Proof.Machine

/-! ### The frame buffers -/

theorem indicesOk_fb1Write {s : State} (hm : MemoriesOk s) (h : IndicesOk s) (p : Nat) {v : Byte}
    (hv : v.toNat < s.cfg.P) : IndicesOk (fb1Write p v s) := by
  refine ⟨fun q hq => ?_, h.fbm⟩
  rw [fb1Read_fb1Write hm]
  split_ifs
  · exact hv
  · exact h.fb1 q hq

theorem indicesOk_fbmWrite {s : State} (hm : MemoriesOk s) (h : IndicesOk s) (k : Fin 8) (p : Nat) {v : Byte}
    (hv : v.toNat < s.cfg.P) : IndicesOk (fbmWrite k p v s) := by
  refine ⟨h.fb1, fun j q hq => ?_⟩
  rw [fbmRead_fbmWrite hm]
  split_ifs
  · exact hv
  · exact h.fbm j q hq

theorem indicesOk_fb1FillAll {s : State} (h : IndicesOk s) {v : Byte} (hv : v.toNat < s.cfg.P) :
    IndicesOk (fb1FillAll v s) := by
  refine ⟨fun p (hp : p < s.cfg.N1) => ?_, h.fbm⟩
  rw [fb1Read_fb1FillAll, if_pos hp]
  exact hv

theorem indicesOk_fbmFillAll {s : State} (h : IndicesOk s) {v : Byte} (hv : v.toNat < s.cfg.P) :
    IndicesOk (fbmFillAll v s) := by
  refine ⟨h.fb1, fun k p (hp : p < s.cfg.NM) => ?_⟩
  rw [fbmRead_fbmFillAll, if_pos hp]
  exact hv

/-- What a command that does not fault stores keeps every frame-buffer element below `P` (spec/10_state.md
R26): the commands that store into a frame buffer check the value, the others leave both as they are. -/
theorem indicesOk_memoryEffect {i : Instr} {s : State} (hm : MemoriesOk s) (h : IndicesOk s)
    (hf : expectedFault s.cfg i = none) : IndicesOk (memoryEffect i s) := by
  cases i with
  | fb1Fill v =>
    simp only [expectedFault] at hf
    split_ifs at hf with hv
    exact indicesOk_fb1FillAll h (not_le.1 hv)
  | fbmFill v =>
    simp only [expectedFault] at hf
    split_ifs at hf with hv
    exact indicesOk_fbmFillAll h (not_le.1 hv)
  | fb1Set pos v =>
    simp only [expectedFault] at hf
    split_ifs at hf with _ hv
    exact indicesOk_fb1Write hm h _ (not_le.1 hv)
  | fbmSet k pos v =>
    simp only [expectedFault] at hf
    split_ifs at hf with _ hv
    exact indicesOk_fbmWrite hm h _ _ (not_le.1 hv)
  | fbmSetxy x y v =>
    simp only [expectedFault] at hf
    split_ifs at hf with _ _ hv
    exact indicesOk_fbmWrite hm h _ _ (not_le.1 hv)
  | _ => exact indicesOk_congr h rfl rfl rfl

/-- A frame whose indices all lie in the palette is readable. -/
theorem frameReadable_of_indicesOk (m : RenderMode) {s : State} (h : IndicesOk s) : frameReadable m s = true := by
  rw [frameReadable_iff]
  intro p hp k _
  cases m with
  | single => exact h.fb1 p hp
  | multi => exact h.fbm k p hp

/-! ### The status registers -/

theorem statusOk_congr {s t : State} (h : StatusOk s) (hf : t.fault = s.fault) (hb : t.busy = s.busy)
    (hv : t.rspValid = s.rspValid) (hc : t.rspCode = s.rspCode) (hd : t.rspData = s.rspData) : StatusOk t :=
  ⟨by rw [hf]; exact h.reserved, by rw [hc, hf]; exact h.code, by rw [hb, hv]; exact h.busy,
    by rw [hb, hv, hc, hd]; exact h.fresh⟩

theorem statusOk_accept {s : State} (h : StatusOk s) (op : Byte) (arg : BitVec 32) : StatusOk (accept op arg s) :=
  ⟨h.reserved, h.code, fun _ => rfl, nofun⟩

theorem statusOk_respond {s : State} (h : s.fault.extractLsb' 6 2 = 0) (d : BitVec 32) : StatusOk (respond d s) :=
  ⟨h, .inl rfl, nofun, nofun⟩

/-- No cause has a sticky bit among the reserved bits `FAULT[7:6]`. -/
theorem reserved_setFaultBit (c : FaultCause) (f : Byte) :
    (setFaultBit c f).extractLsb' 6 2 = f.extractLsb' 6 2 := by
  have : (1#8 <<< c.bit).extractLsb' 6 2 = 0#2 := by cases c <;> rfl
  rw [setFaultBit, BitVec.extractLsb'_or, this, BitVec.or_zero]

theorem statusOk_raise {s : State} (h : StatusOk s) (c : FaultCause) : StatusOk (raise c s) :=
  ⟨(reserved_setFaultBit c s.fault).trans h.reserved,
    .inr ⟨c, rfl, by rw [raise_fault, getLsbD_setFaultBit]; simp⟩, nofun, nofun⟩

/-! ### The pins -/

theorem pinsOk_phaseSetData {s : State} {j : Nat} (hj : j < 8) (hc : s.ledClk = false) :
    PinsOk (phaseSetData j s) :=
  ⟨hc, rfl, fun _ => by simp [Nat.mod_eq_of_lt hj], rfl⟩

theorem pinsOk_phaseClockHigh {s : State} (h : PinsOk s) (hp : s.phase ≠ .idle) : PinsOk (phaseClockHigh s) :=
  ⟨rfl, by simpa [hp] using h.sel, fun _ => h.data hp, rfl⟩

theorem pinsOk_phaseClockLow {s : State} (h : PinsOk s) (hp : s.phase ≠ .idle) : PinsOk (phaseClockLow s) :=
  ⟨rfl, by simpa [hp] using h.sel, fun _ => h.data hp, rfl⟩

theorem pinsOk_phaseIdle {s : State} (hc : s.ledClk = false) : PinsOk (phaseIdle s) :=
  ⟨hc, rfl, fun h => absurd rfl h, rfl⟩

theorem PinsOk.clk_low {s : State} (h : PinsOk s) (hp : s.phase ≠ .clockHigh) : s.ledClk = false := by
  rw [h.clk]; exact decide_eq_false hp

/-! ### The sequencer -/

/-- A block with `STAGE = NONE` and the transmitter at rest. -/
theorem sequencerOk_of_rest {s : State} (hs : s.stage = .none) (hp : s.phase = .idle) (hd : s.ledData = 0) :
    SequencerOk s :=
  ⟨fun _ => hs, fun _ => ⟨hp, hd⟩, fun h => absurd hs h⟩

/-- A render in progress. -/
theorem sequencerOk_of_render {m : RenderMode} {s : State} (hb : s.busy = true) (hs : s.stage ≠ .none)
    (h : RenderOk m s) : SequencerOk s :=
  ⟨fun hr => absurd (hb.symm.trans hr) nofun, fun hn => absurd hn hs, fun _ => ⟨m, h⟩⟩

/-- The render in progress is the one `CMDR` holds. -/
theorem SequencerOk.renderOk {m : RenderMode} {s : State} (h : SequencerOk s) (hs : s.stage ≠ .none)
    (hm : activeMode s = some m) : RenderOk m s := by
  obtain ⟨m', h'⟩ := h.active hs
  cases hm.symm.trans h'.mode
  exact h'

theorem renderOk_withHost {m : RenderMode} {s : State} (h : RenderOk m s) (l : List HostInput) :
    RenderOk m { s with host := l } :=
  ⟨h.mode, h.lines, h.place, h.left,
    fun hp => (h.bytes hp).trans (slotBytes_congr m rfl rfl rfl rfl rfl rfl rfl rfl), h.sending, h.dark⟩

theorem renderOk_renderStart {m : RenderMode} {s : State} (hm : activeMode s = some m) (hp : s.phase = .idle) :
    RenderOk m (renderStart m s) where
  mode := hm
  lines := rfl
  place _ := ⟨(length_range m s.cfg).1, Nat.zero_lt_succ 2⟩
  left := nofun
  bytes h := absurd hp h
  sending := nofun
  dark := nofun

/-- Inside a slot the transmitter moves and the place of the render does not. -/
theorem renderOk_inside {m : RenderMode} {s t : State} (h : RenderOk m s) (hp : t.phase ≠ .idle)
    (hb : t.shift = slotBytes m s) (hl : s.stage = .latch → 1 ≤ s.lcnt.toNat)
    (ht : t = { s with
      shift := t.shift, bitn := t.bitn, phase := t.phase
      ledClk := t.ledClk, ledData := t.ledData, ledSel := t.ledSel, wire := t.wire }) : RenderOk m t := by
  rw [ht]
  exact ⟨h.mode, h.lines, h.place, h.left,
    fun _ => hb.trans (slotBytes_congr m rfl rfl rfl rfl rfl rfl rfl rfl), fun hs _ => hl hs,
    fun _ hi => absurd hi hp⟩

/-- A slot that is being sent has its bytes loaded and, in the latch run, a byte left. -/
theorem renderOk_inside_of_sending {m : RenderMode} {s t : State} (h : RenderOk m s) (hs : s.phase ≠ .idle)
    (hp : t.phase ≠ .idle) (hb : t.shift = s.shift)
    (ht : t = { s with
      shift := t.shift, bitn := t.bitn, phase := t.phase
      ledClk := t.ledClk, ledData := t.ledData, ledSel := t.ledSel, wire := t.wire }) : RenderOk m t :=
  renderOk_inside h hp (hb.trans (h.bytes hs)) (fun hl => h.sending hl hs) ht

theorem slotBytes_of_latch (m : RenderMode) {s : State} (hs : s.stage = .latch) :
    slotBytes m s = Lanes.ofFn fun _ => 0 := by
  simp [slotBytes, hs]

/-- `LED_DATA` is 0 while every line sends a zero byte. -/
@[simp] theorem dataBits_zero (act : Byte) (j : Nat) : dataBits (Lanes.ofFn fun _ => 0) act j = 0 := by
  simp [dataBits]

/-- At the end of a latch slot the data pins carry the last bit of a zero byte (spec/44_bit_transmit.md R176). -/
theorem ledData_of_latch_sent {m : RenderMode} {s : State} (h : RenderOk m s) (hpins : PinsOk s)
    (hs : s.stage = .latch) (hp : s.phase ≠ .idle) : s.ledData = 0 := by
  rw [hpins.data hp, h.bytes hp, slotBytes_of_latch m hs, dataBits_zero]

theorem renderOk_phaseIdle {m : RenderMode} {s : State} (h : RenderOk m s) (hpins : PinsOk s)
    (hp : s.phase ≠ .idle) : RenderOk m (phaseIdle s) :=
  ⟨h.mode, h.lines, h.place, h.left, fun hi => absurd rfl hi, fun _ hi => absurd rfl hi,
    fun hs _ _ => ledData_of_latch_sent (s := s) h hpins hs hp⟩

section
variable {m : RenderMode} {s : State}

theorem advanceSlot_component (hs : s.stage = .payload) (hk : s.comp.toNat < 2) :
    advanceSlot m s = { s with comp := s.comp + 1 } := by
  simp [advanceSlot, hs, hk]

theorem advanceSlot_position (hs : s.stage = .payload) (hk : ¬ s.comp.toNat < 2)
    (hp : s.pos.toNat + 1 < m.length s.cfg) : advanceSlot m s = { s with pos := s.pos + 1, comp := 0 } := by
  simp [advanceSlot, hs, hk, hp]

theorem advanceSlot_latchRun (hs : s.stage = .payload) (hk : ¬ s.comp.toNat < 2)
    (hp : ¬ s.pos.toNat + 1 < m.length s.cfg) :
    advanceSlot m s = { s with stage := .latch, lcnt := BitVec.ofNat 12 (m.latchCount s.cfg) } := by
  simp [advanceSlot, hs, hk, hp]

theorem advanceSlot_latchByte (hs : s.stage = .latch) : advanceSlot m s = { s with lcnt := s.lcnt - 1 } := by
  simp [advanceSlot, hs]

/-- The registers move on inside the ranges of spec/10_state.md R27: the next component, the next position, the
latch run, one latch byte fewer. -/
theorem renderOk_advanceSlot (h : RenderOk m s) (hs : s.stage ≠ .none) (hp : s.phase = .idle)
    (hl : s.stage = .latch → 1 ≤ s.lcnt.toNat ∧ s.ledData = 0) :
    RenderOk m (advanceSlot m s) ∧ (advanceSlot m s).stage ≠ .none := by
  have hlen := length_range m s.cfg
  have hle := latchCount_le m s.cfg
  cases hg : s.stage with
  | none => exact absurd hg hs
  | payload =>
    obtain ⟨hpos, hcomp⟩ := h.place hg
    by_cases hk : s.comp.toNat < 2
    · rw [advanceSlot_component hg hk]
      have inRange : (s.comp + 1).toNat < 3 := by rw [BitVec.toNat_add]; simp; omega
      exact ⟨⟨h.mode, h.lines, fun _ => ⟨hpos, inRange⟩, h.left, fun hi => absurd hp hi, h.sending, h.dark⟩, hs⟩
    by_cases hn : s.pos.toNat + 1 < m.length s.cfg
    · rw [advanceSlot_position hg hk hn]
      have inRange : (s.pos + 1).toNat < m.length s.cfg := by rw [BitVec.toNat_add]; simp; omega
      exact ⟨⟨h.mode, h.lines, fun _ => ⟨inRange, Nat.zero_lt_succ 2⟩, h.left, fun hi => absurd hp hi, h.sending,
        h.dark⟩, hs⟩
    · rw [advanceSlot_latchRun hg hk hn]
      have count : (BitVec.ofNat 12 (m.latchCount s.cfg)).toNat = m.latchCount s.cfg := by simp; omega
      exact ⟨⟨h.mode, h.lines, nofun, fun _ => count.le, fun hi => absurd hp hi, fun _ hi => absurd hp hi,
        fun _ _ hlt => absurd count hlt.ne⟩, nofun⟩
  | latch =>
    obtain ⟨hone, hdark⟩ := hl hg
    rw [advanceSlot_latchByte hg]
    have fewer : (s.lcnt - 1).toNat ≤ s.lcnt.toNat := by rw [BitVec.toNat_sub]; simp; omega
    exact ⟨⟨h.mode, h.lines, h.place, fun _ => fewer.trans (h.left hg), fun hi => absurd hp hi,
      fun _ hi => absurd hp hi, fun _ _ _ => hdark⟩, hs⟩

end

/-! ### The invariant -/

/-- The invariant does not speak of the host's inputs. -/
theorem blockInv_withHost {s : State} (h : BlockInv s) (l : List HostInput) : BlockInv { s with host := l } where
  memories := memoriesOk_congr h.memories rfl rfl rfl rfl
  indices := indicesOk_congr h.indices rfl rfl rfl
  status := statusOk_congr h.status rfl rfl rfl rfl rfl
  pins := pinsOk_congr h.pins rfl rfl rfl rfl rfl rfl rfl rfl
  sequencer := ⟨h.sequencer.ready, h.sequencer.none,
    fun hs => (h.sequencer.active hs).imp fun _ hr => renderOk_withHost hr l⟩

/-- The state a reset leaves meets the invariant, whatever the inputs and the two records hold. -/
theorem blockInv_of_reset (c : Config) (host : List HostInput) (wire : List Pins) (rsp : List Response) :
    BlockInv { State.resetOf c with host := host, wire := ⟨false, 0, 0⟩ :: wire, responses := rsp } where
  memories := memoriesOk_congr (memoriesOk_resetOf c) rfl rfl rfl rfl
  indices := ⟨fun _ _ => c.P_range.1,
    fun k p _ => (congrArg BitVec.toNat (fbmRead_resetOf c k p)).trans_lt c.P_range.1⟩
  status := ⟨(by decide : (0#8).extractLsb' 6 2 = 0), .inl rfl, nofun, fun _ _ => ⟨rfl, rfl⟩⟩
  pins := ⟨rfl, rfl, fun h => absurd rfl h, rfl⟩
  sequencer := sequencerOk_of_rest rfl rfl rfl

/-- Settles O58: the power-up state is the state a reset leaves, with no input and no record yet. -/
theorem resetMeetsTheInvariant : Obligations.ResetMeetsTheInvariant :=
  ⟨fun c => blockInv_of_reset c [] [] [], blockInv_of_reset Config.standard [] [] []⟩

/-- A ready block that accepts a command is at rest, and the acceptance moves no pin. -/
theorem blockInv_accept {s : State} (h : BlockInv s) (hs : s.stage = .none) (op : Byte) (arg : BitVec 32) :
    BlockInv (accept op arg s) where
  memories := memoriesOk_congr h.memories rfl rfl rfl rfl
  indices := indicesOk_congr h.indices rfl rfl rfl
  status := statusOk_accept h.status op arg
  pins := pinsOk_congr h.pins rfl rfl rfl rfl rfl rfl rfl rfl
  sequencer := sequencerOk_of_rest hs (h.sequencer.none hs).1 (h.sequencer.none hs).2

/-- A frame ends with the zero byte of its last latch slot: the transmitter in `IDLE`, all pins 0. -/
theorem sendFrame_atRest (m : RenderMode) (s : State) (h : s.ledClk = false) :
    (sendFrame m s).phase = .idle ∧ pins (sendFrame m s) = ⟨false, 0, 0⟩ ∧
      (sendFrame m s).wire.head? = some ⟨false, 0, 0⟩ := by
  obtain ⟨l, hl⟩ := frameSlots_last m s.cfg
  have hlast : sendFrame m s = renderFinish (sendSlot m (l.foldl (sendSlot m) (renderStart m s)) (.latch 1)) := by
    rw [sendFrame, hl, List.foldl_append]; rfl
  rw [hlast, sendSlot_eq m _ _ (foldl_sendSlot_sent m l (renderStart m s) h).clk, slotBytes_of_latch m rfl]
  simp [pins, slotWire, dataBits]

theorem blockInv_raise {s : State} (h : BlockInv s) (hs : s.stage = .none) (c : FaultCause) :
    BlockInv (raise c s) where
  memories := memoriesOk_congr h.memories rfl rfl rfl rfl
  indices := indicesOk_congr h.indices rfl rfl rfl
  status := statusOk_raise h.status c
  pins := pinsOk_congr h.pins rfl rfl rfl rfl rfl rfl rfl rfl
  sequencer := sequencerOk_of_rest hs (h.sequencer.none hs).1 (h.sequencer.none hs).2

/-- A command that is no render and does not fault stores in range and touches only its memory. -/
theorem blockInv_answered {i : Instr} {s : State} (h : BlockInv s) (hs : s.stage = .none)
    (hf : expectedFault s.cfg i = none) (d : BitVec 32) : BlockInv (respond d (memoryEffect i s)) := by
  obtain ⟨hp, hd⟩ := h.sequencer.none hs
  obtain ⟨⟨-, q, w⟩, hfault, -⟩ := memoryEffect_outside i s
  exact {
    memories := memoriesOk_congr (memoriesOk_memoryEffect h.memories hf) rfl rfl rfl rfl
    indices := indicesOk_congr (indicesOk_memoryEffect h.memories h.indices hf) rfl rfl rfl
    status := statusOk_respond (hfault.symm ▸ h.status.reserved) d
    pins := pinsOk_congr h.pins w.clk w.data w.sel q.phase q.act q.shift q.bitn w.wire
    sequencer := sequencerOk_of_rest (q.stage.trans hs) (q.phase.trans hp) (w.data.trans hd) }

theorem blockInv_sendFrame {s : State} (h : BlockInv s) (hs : s.stage = .none) (m : RenderMode) :
    BlockInv (sendFrame m s) := by
  have hp := (h.sequencer.none hs).1
  obtain ⟨hphase, hpins, hwire⟩ := sendFrame_atRest m s (h.pins.clk_low (by rw [hp]; nofun))
  have kept := (sendFrame_keeps m s).1
  have hclk : (sendFrame m s).ledClk = false := congrArg Pins.clk hpins
  have hdata : (sendFrame m s).ledData = 0 := congrArg Pins.data hpins
  have hsel : (sendFrame m s).ledSel = 0 := congrArg Pins.sel hpins
  exact {
    memories := memoriesOk_congr h.memories kept.cfg kept.pal kept.fb1 kept.fbm
    indices := indicesOk_congr h.indices kept.cfg kept.fb1 kept.fbm
    status := ⟨kept.fault.symm ▸ h.status.reserved, .inl rfl, nofun, nofun⟩
    pins := ⟨by rw [hclk, hphase]; rfl, by rw [hsel, hphase]; rfl, fun hi => absurd hphase hi,
      hwire.trans (congrArg some hpins.symm)⟩
    sequencer := sequencerOk_of_rest rfl hphase hdata }

/-- A command executed from a block at rest keeps the invariant, however it ends. -/
theorem blockInv_commandEnd {s t : State} (h : BlockInv s) (hs : s.stage = .none) (ht : CommandEnd s t) :
    BlockInv t := by
  cases ht with
  | faulted c => exact blockInv_raise h hs c
  | answered i hf => exact blockInv_answered h hs hf _
  | rendered m _ => exact blockInv_sendFrame h hs m

theorem blockInv_renderStart {m : RenderMode} {s : State} (h : BlockInv s) (hb : s.busy = true)
    (hs : s.stage = .none) (hm : activeMode s = some m) : BlockInv (renderStart m s) where
  memories := memoriesOk_congr h.memories rfl rfl rfl rfl
  indices := indicesOk_congr h.indices rfl rfl rfl
  status := statusOk_congr h.status rfl rfl rfl rfl rfl
  pins := by
    have hp := (h.sequencer.none hs).1
    exact ⟨h.pins.clk, by simpa [hp] using h.pins.sel, fun hi => absurd hp hi, h.pins.recorded⟩
  sequencer := sequencerOk_of_render hb nofun (renderOk_renderStart hm (h.sequencer.none hs).1)

theorem statusOk_renderMove {m : RenderMode} {s t : State} (h : StatusOk s) (ht : RenderMove m s t) :
    StatusOk t := by
  cases ht with
  | finish => exact statusOk_respond (s := { s with stage := .none, lcnt := 0 }) h.reserved 0
  | nextSlot =>
    obtain ⟨_, _, _, _, e⟩ := advanceSlot_place m (phaseIdle s)
    rw [e]; exact statusOk_congr h rfl rfl rfl rfl rfl
  | _ => exact statusOk_congr h rfl rfl rfl rfl rfl

theorem pinsOk_renderMove {m : RenderMode} {s t : State} (h : PinsOk s) (ht : RenderMove m s t) : PinsOk t := by
  cases ht with
  | begin hp => exact pinsOk_phaseSetData (by decide) (h.clk_low (by rw [hp]; nofun))
  | finish => exact pinsOk_congr h rfl rfl rfl rfl rfl rfl rfl rfl
  | clockHigh hp => exact pinsOk_phaseClockHigh h (by rw [hp]; nofun)
  | clockLow hp => exact pinsOk_phaseClockLow h (by rw [hp]; nofun)
  | nextBit hp => exact pinsOk_phaseSetData (by omega) (h.clk_low (by rw [hp]; nofun))
  | nextSlot hp =>
    obtain ⟨_, _, _, _, e⟩ := advanceSlot_place m (phaseIdle s)
    rw [e]
    exact pinsOk_congr (pinsOk_phaseIdle (h.clk_low (by rw [hp]; nofun))) rfl rfl rfl rfl rfl rfl rfl rfl

/-- A latch slot that can be sent has a byte left. -/
theorem SlotReady.latch_left {m : RenderMode} {s : State} (h : SlotReady m s) (hs : s.stage = .latch) :
    1 ≤ s.lcnt.toNat := by
  simp only [SlotReady, hs] at h
  exact Nat.one_le_iff_ne_zero.2 fun e => h (BitVec.eq_of_toNat_eq e)

theorem sequencerOk_renderMove {m : RenderMode} {s t : State} (hpins : PinsOk s) (hb : s.busy = true)
    (hs : s.stage ≠ .none) (h : RenderOk m s) (ht : RenderMove m s t) : SequencerOk t := by
  cases ht with
  | begin _ hr => exact sequencerOk_of_render hb hs (renderOk_inside h nofun rfl hr.latch_left rfl)
  | finish hp hg hl =>
    have : s.lcnt.toNat < m.latchCount s.cfg := by rw [hl]; exact latchCount_pos m s.cfg
    exact sequencerOk_of_rest rfl hp (h.dark hg hp this)
  | clockHigh hp =>
    exact sequencerOk_of_render hb hs (renderOk_inside_of_sending h (by rw [hp]; nofun) nofun rfl rfl)
  | clockLow hp =>
    exact sequencerOk_of_render hb hs (renderOk_inside_of_sending h (by rw [hp]; nofun) nofun rfl rfl)
  | nextBit hp =>
    exact sequencerOk_of_render hb hs (renderOk_inside_of_sending h (by rw [hp]; nofun) nofun rfl rfl)
  | nextSlot hp =>
    have hi : s.phase ≠ .idle := by rw [hp]; nofun
    obtain ⟨hr, hg⟩ := renderOk_advanceSlot (renderOk_phaseIdle h hpins hi) hs rfl
      fun hl => ⟨h.sending hl hi, ledData_of_latch_sent (s := s) h hpins hl hi⟩
    obtain ⟨_, _, _, _, e⟩ := advanceSlot_place m (phaseIdle s)
    exact sequencerOk_of_render (by rw [e]; exact hb) hg hr

theorem blockInv_renderMove {m : RenderMode} {s t : State} (h : BlockInv s) (hb : s.busy = true)
    (hs : s.stage ≠ .none) (hm : activeMode s = some m) (ht : RenderMove m s t) : BlockInv t := by
  have kept := ht.keeps
  exact ⟨memoriesOk_congr h.memories kept.cfg kept.pal kept.fb1 kept.fbm,
    indicesOk_congr h.indices kept.cfg kept.fb1 kept.fbm, statusOk_renderMove h.status ht,
    pinsOk_renderMove h.pins ht, sequencerOk_renderMove h.pins hb hs (h.sequencer.renderOk hs hm) ht⟩

theorem blockInv_blockMove {e : HostInput} {s t : State} (h : BlockInv s) (ht : BlockMove e s t) :
    BlockInv t := by
  cases ht with
  | reset => exact blockInv_of_reset s.cfg s.host s.wire s.responses
  | wait => exact h
  | accept _ hb => exact blockInv_accept h (h.sequencer.ready hb) _ _
  | whole _ hb ht =>
    have hs := h.sequencer.ready hb
    exact blockInv_commandEnd (blockInv_accept h hs _ _) hs ht
  | execute _ _ hs ht => exact blockInv_commandEnd h hs ht
  | start m _ hb hs hm => exact blockInv_renderStart h hb hs hm
  | phase m _ hb hs hm ht => exact blockInv_renderMove h hb hs hm ht

/-- Settles O59: the inputs taken do not matter to the invariant, and every case of a step keeps it. -/
theorem everyStepKeepsTheInvariant : Obligations.EveryStepKeepsTheInvariant :=
  fun _ _ h hstep => blockInv_blockMove (blockInv_withHost h _) (step_blockMove hstep)

end Sys2Proof.Machine

/-!
PROOF. The command taken phase by phase against the one atomic transition (spec/10_state.md R35,
spec/20_memory.md R63): acceptance, then either the one step of a command that is no render, or the start of
the render, its phase steps and its completion, which `run_frame` says are the whole frame.
-/

namespace Sys2Proof.Machine

theorem run_one (s : State) : run 1 s = step s := by
  cases h : step s with
  | next t => exact run_one_of_next h
  | fault f => exact run_succ_of_fault h 0
  | refused r => exact run_succ_of_refused h 0

/-- A ready block to which the host presents a word, and nothing after it. -/
theorem step_of_offer {s : State} (hb : s.busy = false) (whole : Bool) (op : Byte) (arg : BitVec 32) :
    step { s with host := [offer whole op arg] } =
      if whole then runCommand (accept op arg { s with host := [] })
      else .next (accept op arg { s with host := [] }) := by
  simp [step, machineStep, reactTo, hostInput, consumeInput, offer, cmdReady, hb]

/-- A block whose active mode is `m` holds that mode's command in `CMDR`. -/
theorem fetch_of_activeMode {m : RenderMode} {s : State} (h : activeMode s = some m) :
    (m = .single ∧ fetch s = .ok .renderS) ∨ (m = .multi ∧ fetch s = .ok .renderM) := by
  unfold activeMode at h
  cases hf : fetch s with
  | error r => rw [hf] at h; cases h
  | ok i =>
    rw [hf] at h
    cases i with
    | renderS => cases h; exact .inl ⟨rfl, rfl⟩
    | renderM => cases h; exact .inr ⟨rfl, rfl⟩
    | _ => cases h

/-- A render command executes as its whole frame. -/
theorem runCommand_of_render {m : RenderMode} {s : State} (h : activeMode s = some m) :
    runCommand s = renderFrame m s := by
  obtain ⟨rfl, hf⟩ | ⟨rfl, hf⟩ := fetch_of_activeMode h <;> rw [runCommand, hf] <;> rfl

theorem stepsOf_of_command {s : State} (c : Config) (h : activeMode s = none) : stepsOf c (fetch s) = 2 := by
  unfold activeMode at h
  cases hf : fetch s with
  | error r => rfl
  | ok i =>
    rw [hf] at h
    cases i with
    | renderS | renderM => cases h
    | _ => rfl

theorem stepsOf_of_render {m : RenderMode} {s : State} (c : Config) (h : activeMode s = some m) :
    stepsOf c (fetch s) = 25 * (frameSlots m c).length + 1 + 1 + 1 := by
  rw [length_frameSlots]
  obtain ⟨rfl, hf⟩ | ⟨rfl, hf⟩ := fetch_of_activeMode h <;>
    simp only [hf, stepsOf, RenderMode.latchCount, RenderMode.length] <;> omega

theorem inputsTaken_of_no_input {u : State} (h : u.host = []) (n : Nat) : inputsTaken n u = u := by
  rw [inputsTaken, h, List.drop_nil, ← h]

/-- From the state in which a command has been accepted, with nothing more presented, the steps left end as
the command does when executed at once. -/
theorem run_of_accepted {u : State} (h : BlockInv u) (hb : u.busy = true) (hs : u.stage = .none)
    (hh : u.host = []) : ∃ k, stepsOf u.cfg (fetch u) = k + 1 ∧ run k u = runCommand u := by
  have one := step_of_busy hb (by simp [hostInput, hh])
  rw [inputsTaken_of_no_input hh] at one
  cases hm : activeMode u with
  | none => exact ⟨1, stepsOf_of_command u.cfg hm, by rw [run_one, one, blockStep_of_command hs hm]⟩
  | some m =>
    have hp := (h.sequencer.none hs).1
    have hr := frameReadable_of_indicesOk m h.indices
    have frame := run_frame m u hb hm hp (h.pins.clk_low (by rw [hp]; nofun)) hr (by simp [QuietFor, hh])
    refine ⟨_, stepsOf_of_render u.cfg hm, ?_⟩
    rw [run_succ_of_next (one.trans (blockStep_of_start hs hm)), frame, inputsTaken_of_no_input hh,
      runCommand_of_render hm, renderFrame_eq, if_pos hr]

/-- Settles O51: both ways accept the word into one state, and end it alike from there. -/
theorem phaseByPhaseIsTheWholeCommand : Obligations.PhaseByPhaseIsTheWholeCommand := by
  intro s op arg h hb
  have hs := h.sequencer.ready hb
  obtain ⟨k, hk, hrun⟩ := run_of_accepted (blockInv_accept (blockInv_withHost h []) hs op arg) rfl hs rfl
  calc run (stepsOf s.cfg (decode (op ++ arg))) { s with host := [offer false op arg] }
      = run (k + 1) { s with host := [offer false op arg] } := by rw [decode_append]; exact congrArg (run · _) hk
    _ = run k (accept op arg { s with host := [] }) := run_succ_of_next (step_of_offer hb false op arg) k
    _ = runCommand (accept op arg { s with host := [] }) := hrun
    _ = step { s with host := [offer true op arg] } := (step_of_offer hb true op arg).symm

end Sys2Proof.Machine

/-!
PROOF. The palette as its own commands see it: what `PAL.GET` answers after `PAL.SETC` (spec/20_memory.md R58).
-/

namespace Sys2Proof.Machine

/-- `PAL.SETC` within capacity: the entry is stored in the wire order `(g, r, b)` (spec/40_palette.md R91). -/
theorem exec_palSetc_of_lt {idx : Byte} {s : State} (h : idx.toNat < s.cfg.P) (r g b : Byte) :
    exec (.palSetc idx r g b) s = .next (respond 0 (palWrite idx.toNat ⟨g, r, b⟩ s)) :=
  exec_of_no_fault (if_neg (not_le.2 h)) nofun nofun

/-- `PAL.GET` within capacity: the entry is the answer and nothing is stored (spec/40_palette.md R98). -/
theorem exec_palGet_of_lt {idx : Byte} {s : State} (h : idx.toNat < s.cfg.P) :
    exec (.palGet idx) s = .next (respond (colorData (palRead s idx.toNat)) s) :=
  exec_of_no_fault (if_neg (not_le.2 h)) nofun nofun

/-- A response changes no palette entry. -/
@[simp] theorem palRead_respond (d : BitVec 32) (s : State) (i : Nat) : palRead (respond d s) i = palRead s i := rfl

/-- Settles O28: neither command faults, for the first leaves the parameters as they are, and the second
answers the entry the first stored. -/
theorem palGetAfterPalSetcReturnsWireOrder : Obligations.PalGetAfterPalSetcReturnsWireOrder := by
  intro idx r g b s hs hidx
  have stored : palRead (palWrite idx.toNat ⟨g, r, b⟩ s) idx.toNat = ⟨g, r, b⟩ := by
    rw [palRead_palWrite hs, if_pos rfl]
  have hidx' : idx.toNat < (respond 0 (palWrite idx.toNat ⟨g, r, b⟩ s)).cfg.P := hidx
  refine ⟨_, _, exec_palSetc_of_lt hidx r g b, exec_palGet_of_lt hidx', rfl, ?_⟩
  rw [respond_rspData, palRead_respond, stored, colorData]

end Sys2Proof.Machine

/-!
PROOF. The columns `match` and `mask` of spec/30_encoding.md R75 against the decoder: the mask keeps the opcode
and the reserved field of the format, the match has the opcode and zeros, so a word that meets a row has the
opcode of that row and its reserved bits zero, which is what the decoder checks.
-/

namespace Sys2Proof

/-- The operand bits a mask keeps for the field of `len` bits from bit `lo` on: ones in the field. -/
def fieldMask (lo len : Nat) : BitVec 32 := (BitVec.allOnes len).setWidth 32 <<< lo

theorem getLsbD_fieldMask (lo len i : Nat) :
    (fieldMask lo len).getLsbD i = decide (i < 32 ∧ lo ≤ i ∧ i - lo < len) := by
  rw [fieldMask, BitVec.getLsbD_shiftLeft, BitVec.getLsbD_setWidth, BitVec.getLsbD_allOnes, Bool.eq_iff_iff]
  simp only [Bool.and_eq_true, Bool.not_eq_true', decide_eq_true_eq, decide_eq_false_iff_not]
  omega

/-- A field is zero exactly when its mask leaves nothing of the word. -/
theorem and_fieldMask_eq_zero_iff (x : BitVec 32) (lo len : Nat) :
    x &&& fieldMask lo len = 0 ↔ x.extractLsb' lo len = 0 := by
  constructor
  · intro h
    refine BitVec.eq_of_getLsbD_eq fun i hi => ?_
    have kept := congrArg (BitVec.getLsbD · (lo + i)) h
    simp only [BitVec.getLsbD_and, getLsbD_fieldMask] at kept
    by_cases hw : lo + i < 32
    · simpa [hi, hw] using kept
    · simp [BitVec.getLsbD_of_ge x (lo + i) (by omega)]
  · intro h
    refine BitVec.eq_of_getLsbD_eq fun i hi => ?_
    rw [BitVec.getLsbD_and, getLsbD_fieldMask]
    by_cases hf : lo ≤ i ∧ i - lo < len
    · have zero : x.getLsbD i = false := by
        simpa [Nat.add_sub_of_le hf.1, hf.2] using congrArg (BitVec.getLsbD · (i - lo)) h
      simp [zero]
    · simp [hf]

theorem and_reservedMask_eq_zero_iff (f : Format) (arg : BitVec 32) :
    arg &&& fieldMask f.reserved.1 f.reserved.2 = 0 ↔ reservedZero f arg = true := by
  rw [and_fieldMask_eq_zero_iff, reservedZero, decide_eq_true_eq]

theorem word_eq_iff {op op' : Byte} {arg arg' : BitVec 32} :
    op ++ arg = op' ++ arg' ↔ op = op' ∧ arg = arg' := by
  refine ⟨fun h => ⟨?_, ?_⟩, fun ⟨hop, harg⟩ => congrArg₂ (· ++ ·) hop harg⟩
  · have left := congrArg (BitVec.extractLsb' 32 8) h
    rwa [BitVec.extractLsb'_append_eq_left, BitVec.extractLsb'_append_eq_left] at left
  · have right := congrArg (BitVec.extractLsb' 0 32) h
    rwa [BitVec.extractLsb'_append_eq_right, BitVec.extractLsb'_append_eq_right] at right

/-- What the decoder checks before it answers a command (spec/30_encoding.md R76). -/
theorem decodeParts_eq_ok_mnemonic_iff (m : Mnemonic) (op : Byte) (arg : BitVec 32) :
    (∃ i, decodeParts op arg = .ok i ∧ i.mnemonic = m) ↔ op = m.opcode ∧ reservedZero m.format arg = true := by
  constructor
  · rintro ⟨i, hi, rfl⟩
    obtain ⟨m, hop, hr, rfl⟩ := decodeParts_eq_ok.1 hi
    rw [mnemonic_build]
    exact ⟨hop, hr⟩
  · rintro ⟨hop, hr⟩
    exact ⟨m.build arg, decodeParts_eq_ok.2 ⟨m, hop, hr, rfl⟩, mnemonic_build m arg⟩

namespace Machine

/-- The column `match`: the opcode, and zeros. -/
theorem tableMatch_eq (m : Mnemonic) : tableMatch m = m.opcode ++ 0#32 := by cases m <;> rfl

/-- The column `mask`: the whole opcode, and the reserved field of the format. -/
theorem tableMask_eq (m : Mnemonic) :
    tableMask m = BitVec.allOnes 8 ++ fieldMask m.format.reserved.1 m.format.reserved.2 := by cases m <;> rfl

/-- What a row of spec/30_encoding.md R75 asks of a word. -/
theorem and_tableMask_eq_tableMatch_iff (m : Mnemonic) (op : Byte) (arg : BitVec 32) :
    (op ++ arg) &&& tableMask m = tableMatch m ↔ op = m.opcode ∧ reservedZero m.format arg = true := by
  rw [tableMask_eq, tableMatch_eq, BitVec.and_append, BitVec.and_allOnes, word_eq_iff]
  exact and_congr_right fun _ => and_reservedMask_eq_zero_iff m.format arg

/-- Settles O3: the decoder and a row both ask for the row's opcode and zero reserved bits. -/
theorem decoderFollowsMatchAndMask : Obligations.DecoderFollowsMatchAndMask := by
  intro m w
  rw [← append_parts w, decode_append, and_tableMask_eq_tableMatch_iff]
  exact decodeParts_eq_ok_mnemonic_iff m _ _

end Machine
end Sys2Proof

/-!
PROOF. What a ready block does with a word the host presents (spec/10_state.md R35, spec/30_encoding.md R76): the
command it decodes to, or `IllegalCommand` (spec/60_exceptions.md R194).
-/

namespace Sys2Proof.Machine

/-- A ready block takes a presented word whole, from its acceptance to the end of the command. -/
theorem step_of_offered_whole {s : State} {op : Byte} {arg : BitVec 32} {rest : List HostInput}
    (hb : s.busy = false) (hh : s.host = offer true op arg :: rest) :
    step s = runCommand (accepted op arg rest s) := by
  simp [step, machineStep, reactTo, hostInput, consumeInput, offer, cmdReady, accept, accepted, hb, hh]

theorem runCommand_of_fetch_ok {s : State} {i : Instr} (h : fetch s = .ok i) : runCommand s = exec i s := by
  rw [runCommand, h]

theorem runCommand_of_fetch_error {s : State} {r : Reject} (h : fetch s = .error r) :
    runCommand s = .next (raise .illegalCommand s) := by
  rw [runCommand, h]

theorem activeMode_of_fetch_error {s : State} {r : Reject} (h : fetch s = .error r) : activeMode s = none := by
  rw [activeMode, h]

/-- Settles O10: the accepted word is the one in `CMDR`, and it decodes to `i`. -/
theorem stepRunsTheDecodedCommand : Obligations.StepRunsTheDecodedCommand := by
  intro s op arg rest i hb hh hi
  have fetched : fetch (accepted op arg rest s) = .ok i := (decode_append op arg).symm.trans hi
  rw [step_of_offered_whole hb hh, runCommand_of_fetch_ok fetched]

/-- A word outside the sixteen rows has an unassigned opcode or a reserved bit set (spec/30_encoding.md R74, R77). -/
theorem decodeParts_error_of_no_row {op : Byte} {arg : BitVec 32}
    (h : ∀ m : Mnemonic, (op ++ arg) &&& tableMask m ≠ tableMatch m) : ∃ r, decodeParts op arg = .error r := by
  cases hd : decodeParts op arg with
  | error r => exact ⟨r, rfl⟩
  | ok i =>
    have row := (decodeParts_eq_ok_mnemonic_iff i.mnemonic op arg).1 ⟨i, hd, rfl⟩
    exact absurd ((and_tableMask_eq_tableMatch_iff i.mnemonic op arg).2 row) (h i.mnemonic)

/-- A busy block that holds an illegal word raises `IllegalCommand` in its next step without reset. -/
theorem step_of_held_illegal {s : State} {r : Reject} (hb : s.busy = true) (hs : s.stage = .none)
    (hr : (hostInput s).rst = false) (hf : fetch s = .error r) :
    step s = .next (raise .illegalCommand (consumeInput s)) := by
  have held : fetch (consumeInput s) = .error r := hf
  calc step s = blockStep (consumeInput s) := by rw [step_of_busy hb hr, consumeInput_eq]
    _ = runCommand (consumeInput s) := blockStep_of_command hs (activeMode_of_fetch_error held)
    _ = .next (raise .illegalCommand (consumeInput s)) := runCommand_of_fetch_error held

/-- Settles O13: the decoder refuses the word, and the fault entry is all the block does. -/
theorem illegalWordsRaiseIllegalCommand : Obligations.IllegalWordsRaiseIllegalCommand := by
  intro s op arg rest hw
  obtain ⟨r, hd⟩ := decodeParts_error_of_no_row hw
  refine ⟨fun hb hh => ?_, fun hb hs hop harg hr => ?_⟩
  · have fetched : fetch (accepted op arg rest s) = .error r := hd
    exact ⟨_, (step_of_offered_whole hb hh).trans (runCommand_of_fetch_error fetched), raise_faultedOnly _ _⟩
  · have held : fetch s = .error r := by rw [fetch, hop, harg, hd]
    exact ⟨_, step_of_held_illegal hb hs hr held, raise_faultedOnly _ _⟩

end Sys2Proof.Machine

/-!
PROOF. A command word decodes to the command it was written from (spec/30_encoding.md R71, R76): the opcode is
that of the command's row, the reserved field is zero, and each operand is read back from its field.
-/

namespace Sys2Proof

/-- The reserved field of the command's format is zero in its operand word (spec/30_encoding.md R74). -/
theorem reservedZero_encodeArg (i : Instr) : reservedZero i.mnemonic.format (encodeArg i) = true := by
  rw [reservedZero_iff, toNat_encodeArg]
  cases i <;> simp only [Instr.mnemonic, Mnemonic.format, Format.reserved, argNat] <;> omega

/-- Every operand is read back from the field it was written to. -/
theorem build_encodeArg (i : Instr) : i.mnemonic.build (encodeArg i) = i := by
  have operand (lo len : Nat) (y : BitVec len) (h : argNat i / 2 ^ lo % 2 ^ len = y.toNat) :
      (encodeArg i).extractLsb' lo len = y := field_eq _ _ (by rw [toNat_encodeArg, h])
  cases i <;> simp only [Instr.mnemonic, Mnemonic.build] <;> congr 1 <;>
    exact operand _ _ _ (by simp only [argNat]; omega)

theorem decode_encode (i : Instr) : decode (encode i) = .ok i := by
  rw [encode, decode_append]
  exact decodeParts_eq_ok.2 ⟨i.mnemonic, rfl, reservedZero_encodeArg i, (build_encodeArg i).symm⟩

/-- A word whose opcode is assigned and whose reserved field is not zero is no command (spec/30_encoding.md R74). -/
theorem decode_of_reserved_field {m : Mnemonic} {arg : BitVec 32} {lo len : Nat}
    (hf : m.format.reserved = (lo, len)) (h : arg.extractLsb' lo len ≠ 0) :
    decode (m.opcode ++ arg) = .error .reservedBit := by
  have nonzero : ¬ reservedZero m.format arg = true := by rw [reservedZero_at hf, decide_eq_true_eq]; exact h
  rw [decode_append, decodeParts, opcodeMnemonic_opcode]
  exact if_neg nonzero

/-- `{r, g, b}` as a number. -/
theorem toNat_packed (r g b : Byte) :
    (r ++ g ++ b : BitVec 24).toNat = r.toNat * 65536 + (g.toNat * 256 + b.toNat) := by
  have whole := toNat_append_eq (r ++ g) b
  have high := toNat_append_eq r g
  refine whole.trans ?_
  omega

end Sys2Proof

/-!
PROOF. The HSV conversion (spec/40_palette.md R94, R95): the channels of the reference function are `v` itself and
parts of it, and with `s = 0` each part is the whole of `v`.
-/

namespace Sys2Proof.Machine

/-! ### The parts `p`, `q`, `t` of the value -/

/-- A part `k / n` of the value, rounded down, is at most the value. -/
theorem mul_div_le_of_le (v : Nat) {k n : Nat} (h : k ≤ n) : v * k / n ≤ v :=
  Nat.div_le_of_le_mul (by rw [Nat.mul_comm n]; exact Nat.mul_le_mul_left v h)

theorem hsvP_le (s v : Nat) : hsvP s v ≤ v := mul_div_le_of_le v (Nat.sub_le 255 _)

theorem hsvQ_le (h s v : Nat) : hsvQ h s v ≤ v := mul_div_le_of_le v (Nat.sub_le 65280 _)

theorem hsvT_le (h s v : Nat) : hsvT h s v ≤ v := mul_div_le_of_le v (Nat.sub_le 65280 _)

theorem hsvP_zero (v : Nat) : hsvP 0 v = v := Nat.mul_div_cancel v (by decide)

theorem hsvQ_zero (h v : Nat) : hsvQ h 0 v = v := by simp [hsvQ]

theorem hsvT_zero (h v : Nat) : hsvT h 0 v = v := by simp [hsvT]

/-! ### The channels -/

/-- Every channel is at most `v`, and one of them is `v`. -/
def TopsAt (v : Byte) (e : Color) : Prop :=
  e.r.toNat ≤ v.toNat ∧ e.g.toNat ≤ v.toNat ∧ e.b.toNat ≤ v.toNat ∧ (v = e.r ∨ v = e.g ∨ v = e.b)

theorem topsAt_colorOfRGB {v : Byte} {r g b : Nat} (hr : r ≤ v.toNat) (hg : g ≤ v.toNat) (hb : b ≤ v.toNat)
    (top : r = v.toNat ∨ g = v.toNat ∨ b = v.toNat) : TopsAt v (colorOfRGB r g b) := by
  have channel_le (c : Nat) : (BitVec.ofNat 8 c).toNat ≤ c := by rw [BitVec.toNat_ofNat]; exact Nat.mod_le c _
  have eq_channel {c : Nat} (hc : c = v.toNat) : v = BitVec.ofNat 8 c := by
    rw [hc, BitVec.ofNat_toNat, BitVec.setWidth_eq]
  exact ⟨(channel_le r).trans hr, (channel_le g).trans hg, (channel_le b).trans hb,
    top.imp eq_channel (.imp eq_channel eq_channel)⟩

/-- In every sector one channel is `v` and the others are parts of it. -/
theorem topsAt_hsvReference (h s v : Byte) : TopsAt v (hsvReference h s v) := by
  have hp := hsvP_le s.toNat v.toNat
  have hq := hsvQ_le h.toNat s.toNat v.toNat
  have ht := hsvT_le h.toNat s.toNat v.toNat
  unfold hsvReference hsvReferenceNat
  split
  · exact topsAt_colorOfRGB le_rfl ht hp (.inl rfl)
  · exact topsAt_colorOfRGB hq le_rfl hp (.inr (.inl rfl))
  · exact topsAt_colorOfRGB hp le_rfl ht (.inr (.inl rfl))
  · exact topsAt_colorOfRGB hp hq le_rfl (.inr (.inr rfl))
  · exact topsAt_colorOfRGB ht hp le_rfl (.inr (.inr rfl))
  · exact topsAt_colorOfRGB le_rfl hp hq (.inl rfl)

/-- Settles O23: the channels are `v` and two of its parts `p`, `q`, `t`, in an order the sector gives. -/
theorem hsvReferenceChannelsAreBoundedByValue : Obligations.HsvReferenceChannelsAreBoundedByValue :=
  topsAt_hsvReference

/-- Without saturation every channel is `v`, whatever the sector. -/
theorem hsvReferenceNat_achromatic (h v : Nat) : hsvReferenceNat h 0 v = colorOfRGB v v v := by
  unfold hsvReferenceNat
  rw [hsvP_zero, hsvQ_zero, hsvT_zero]
  split <;> rfl

theorem hsvReference_achromatic (h v : Byte) : hsvReference h 0 v = ⟨v, v, v⟩ := by
  have grey : colorOfRGB v.toNat v.toNat v.toNat = ⟨v, v, v⟩ := by simp [colorOfRGB]
  exact (hsvReferenceNat_achromatic h.toNat v.toNat).trans grey

/-- Settles O22: the reference conversion is achromatic, and every other one is by definition. -/
theorem everyHsvConversionIsAchromatic : Obligations.EveryHsvConversionIsAchromatic := by
  intro c h v
  unfold hsvToColor
  split
  · exact hsvReference_achromatic h v
  · exact if_pos rfl

/-- Settles O24: the fifteen conversions, computed. -/
theorem hsvReferenceHasTheTabledValues : Obligations.HsvReferenceHasTheTabledValues := by
  intro x hx
  fin_cases hx <;> rfl

end Sys2Proof.Machine

/-!
PROOF. The palette commands (spec/40_palette.md): the three that store a colour are one operation and differ in
the colour alone; `PAL.CYCLE` puts the next entry around the cycle in each of the first `num` places; `PAL.GET`
answers an entry. Then what every command that is no render leaves unchanged.
-/

namespace Sys2Proof.Machine

/-! ### Storing a colour -/

/-- What a command that stores the colour `e` does to the whole state (spec/40_palette.md R91 to R93). -/
theorem setColor_stores {idx : Byte} {s : State} (hs : MemoriesOk s) (h : idx.toNat < s.cfg.P) (e : Color) :
    ∃ t, setColor idx e s = .next t ∧ Completed 0 s t ∧
      palRead t idx.toNat = e ∧ (∀ j, j ≠ idx.toNat → palRead t j = palRead s j) ∧
      SameFb1 s t ∧ SameFbm s t ∧ SameOutside s t := by
  obtain ⟨ht, completed, outside⟩ :=
    exec_completes (i := .palSetc idx e.r e.g e.b) (s := s) (if_neg (not_le.2 h)) nofun nofun
  have read := palRead_palWrite hs idx.toNat e
  exact ⟨_, ht, completed, (read _).trans (if_pos rfl), fun j hj => (read j).trans (if_neg hj), fun _ => rfl,
    fun _ _ => rfl, outside⟩

theorem setColor_faults {idx : Byte} {s : State} (h : s.cfg.P ≤ idx.toNat) (e : Color) :
    ∃ t, setColor idx e s = .next t ∧ FaultedOnly .paletteIndexOutOfBounds s t :=
  exec_faults (i := .palSetc idx e.r e.g e.b) (if_pos h)

/-- Settles O19: `PAL.SETC` stores the colour of its operands. -/
theorem palSetcStoresTheColour : Obligations.PalSetcStoresTheColour := fun idx r g b =>
  ⟨decode_encode (.palSetc idx r g b), fun _ hs =>
    ⟨fun h => setColor_stores hs h ⟨g, r, b⟩, fun h => setColor_faults h ⟨g, r, b⟩⟩⟩

/-- A packed colour is unpacked high to low as R, G, B (spec/20_memory.md R57). -/
theorem exec_palSetp_append (idx r g b : Byte) (s : State) :
    exec (.palSetp idx (r ++ g ++ b)) s = exec (.palSetc idx r g b) s := by
  have packed := toNat_packed r g b
  have hr : packedR (r ++ g ++ b) = r := field_eq _ _ (by rw [packed]; omega)
  have hg : packedG (r ++ g ++ b) = g := field_eq _ _ (by rw [packed]; omega)
  have hb : packedB (r ++ g ++ b) = b := field_eq _ _ (by rw [packed]; omega)
  change setColor idx ⟨packedG _, packedR _, packedB _⟩ s = setColor idx ⟨g, r, b⟩ s
  rw [hr, hg, hb]

/-- Settles O20: `PAL.SETP` is `PAL.SETC` of the three parts, whose operand bits stand in the same order. -/
theorem palSetpStoresThePackedColour : Obligations.PalSetpStoresThePackedColour := by
  intro idx r g b
  refine ⟨decode_encode (.palSetp idx (r ++ g ++ b)), ?_, exec_palSetp_append idx r g b, fun s hs => ?_⟩
  · apply BitVec.eq_of_toNat_eq
    rw [toNat_encodeArg, toNat_encodeArg, argNat, argNat, toNat_packed]
  · rw [exec_palSetp_append]
    exact (palSetcStoresTheColour idx r g b).2 s hs

/-- Settles O21: `PAL.SETHSV` stores the converted colour, which for `s = 0` is `(v, v, v)` (R95). -/
theorem palSethsvStoresTheConvertedColour : Obligations.PalSethsvStoresTheConvertedColour := by
  refine fun idx h sat v => ⟨decode_encode (.palSethsv idx h sat v), fun s hs =>
    ⟨fun hidx => ?_, fun hidx => setColor_faults hidx (hsvToColor s.cfg h sat v)⟩⟩
  obtain ⟨t, ht, completed, stored, frame⟩ := setColor_stores hs hidx (hsvToColor s.cfg h sat v)
  refine ⟨t, ht, completed, stored, ?_, frame⟩
  rintro rfl
  rw [stored, everyHsvConversionIsAchromatic]

/-! ### Rotating the palette -/

theorem expectedFault_palCycle_eq_none {k : BitVec 16} {c : Config} (h1 : 1 ≤ k.toNat) (hk : k.toNat ≤ c.P) :
    expectedFault c (.palCycle k) = none := if_neg (by omega)

/-- The rotation leaves the entries after the first `k` as they are. -/
theorem palRead_rotatePalette_of_ge {k i : Nat} {s : State} (hs : MemoriesOk s) (h1 : 1 ≤ k) (hk : k ≤ s.cfg.P)
    (hi : k ≤ i) : palRead (rotatePalette k s) i = palRead s i := by
  rw [palRead_rotatePalette hs h1 hk, if_neg (by omega), if_neg (by omega)]

/-- The rotation of the first `k` entries, read around the cycle. -/
theorem palRead_rotatePalette_of_lt {k i : Nat} {s : State} (hs : MemoriesOk s) (hk : k ≤ s.cfg.P) (hi : i < k) :
    palRead (rotatePalette k s) i = palRead s ((i + 1) % k) := by
  rw [palRead_rotatePalette hs (by omega) hk]
  obtain h | h : i + 1 < k ∨ i + 1 = k := by omega
  · rw [if_pos h, Nat.mod_eq_of_lt h]
  · rw [if_neg h.not_lt, if_pos h, h, Nat.mod_self]

/-- Settles O25: each of the first `num` places reads the next entry around the cycle. -/
theorem palCycleRotatesTheFirstEntries : Obligations.PalCycleRotatesTheFirstEntries := by
  intro num
  refine ⟨decode_encode (.palCycle num), fun hi hhi => ?_, fun s hs => ⟨fun h1 hk => ?_, fun h => ?_⟩⟩
  · have field : (hi ++ num).extractLsb' 16 16 = hi := BitVec.extractLsb'_append_eq_left
    exact decode_of_reserved_field (m := .palCycle) rfl fun h => hhi (field.symm.trans h)
  · obtain ⟨ht, completed, outside⟩ := exec_completes (expectedFault_palCycle_eq_none h1 hk) nofun nofun
    have rotated (i : Nat) (hi : i < num.toNat) := palRead_rotatePalette_of_lt hs hk hi
    refine ⟨_, ht, completed, fun i hi => ?_, ?_, fun i hi => palRead_rotatePalette_of_ge hs h1 hk hi,
      fun _ => rfl, fun _ _ => rfl, outside⟩
    · exact (rotated i (by omega)).trans (by rw [Nat.mod_eq_of_lt hi])
    · exact (rotated _ (by omega)).trans (by rw [Nat.sub_add_cancel h1, Nat.mod_self])
  · exact exec_faults (if_pos h)

theorem exec_palCycle_of_le {k : BitVec 16} {s : State} (h1 : 1 ≤ k.toNat) (hk : k.toNat ≤ s.cfg.P) :
    exec (.palCycle k) s = .next (respond 0 (rotatePalette k.toNat s)) :=
  exec_of_no_fault (expectedFault_palCycle_eq_none h1 hk) nofun nofun

theorem memoriesOk_respond {s : State} (h : MemoriesOk s) (d : BitVec 32) : MemoriesOk (respond d s) :=
  memoriesOk_congr h rfl rfl rfl rfl

/-- `j` applications of `PAL.CYCLE k` (spec/40_palette.md R97). -/
theorem execTimes_palCycle {k : BitVec 16} {s : State} (hs : MemoriesOk s) (h1 : 1 ≤ k.toNat)
    (hk : k.toNat ≤ s.cfg.P) (j : Nat) :
    ∃ t, execTimes j (.palCycle k) s = .next t ∧
      (∀ i, i < k.toNat → palRead t i = palRead s ((i + j) % k.toNat)) ∧
      (∀ i, k.toNat ≤ i → palRead t i = palRead s i) := by
  induction j generalizing s with
  | zero => exact ⟨s, rfl, fun i hi => by rw [Nat.add_zero, Nat.mod_eq_of_lt hi], fun _ _ => rfl⟩
  | succ j ih =>
    have rotated := memoriesOk_respond (memoriesOk_rotatePalette hs h1 hk) 0
    obtain ⟨t, ht, low, high⟩ := ih rotated hk
    refine ⟨t, by rw [execTimes, exec_palCycle_of_le h1 hk]; exact ht, fun i hi => ?_, fun i hi => ?_⟩
    · rw [low i hi, palRead_respond, palRead_rotatePalette_of_lt hs hk (Nat.mod_lt _ h1), Nat.mod_add_mod,
        Nat.add_assoc]
    · rw [high i hi, palRead_respond, palRead_rotatePalette_of_ge hs h1 hk hi]

/-- Settles O26: by induction on the applications; after `k` of them every entry has gone once around. -/
theorem palCycleHasPeriodK : Obligations.PalCycleHasPeriodK := by
  intro k s hs h1 h2
  refine ⟨execTimes_palCycle hs h1 h2, ?_⟩
  obtain ⟨t, ht, low, high⟩ := execTimes_palCycle hs h1 h2 k.toNat
  refine ⟨t, ht, fun i => ?_⟩
  obtain hi | hi := Nat.lt_or_ge i k.toNat
  · rw [low i hi, Nat.add_mod_right, Nat.mod_eq_of_lt hi]
  · exact high i hi

/-! ### Reading an entry -/

/-- Settles O27: the answer is the stored entry in the layout of spec/20_memory.md R66. -/
theorem palGetAnswersTheEntry : Obligations.PalGetAnswersTheEntry := by
  intro idx
  refine ⟨decode_encode (.palGet idx), fun lo hlo => ?_, fun s => ⟨fun h => ?_, fun h => ?_⟩⟩
  · have field : (idx ++ lo).extractLsb' 0 24 = lo := BitVec.extractLsb'_append_eq_right
    exact decode_of_reserved_field (m := .palGet) rfl fun h => hlo (field.symm.trans h)
  · obtain ⟨ht, completed, outside⟩ :=
      exec_completes (i := .palGet idx) (s := s) (if_neg (not_le.2 h)) nofun nofun
    exact ⟨_, ht, completed, ⟨fun _ => rfl, fun _ => rfl, fun _ _ => rfl⟩, outside⟩
  · exact exec_faults (if_pos h)

/-! ### Commands that are no render -/

/-- Settles O54: such a command ends with a fault, or with an answer after a change of the memories. -/
theorem onlyRendersMoveThePins : Obligations.OnlyRendersMoveThePins := by
  intro i s t hS hM h
  obtain ⟨c, -, rfl⟩ | ⟨-, -, -, rfl⟩ | ⟨m, ⟨-, rfl⟩ | ⟨-, rfl⟩, -, -⟩ := exec_cases h
  · exact (raise_faultedOnly c s).outside
  · exact respond_outside _ (memoryEffect_outside i s).1
  · exact absurd rfl hS
  · exact absurd rfl hM

end Sys2Proof.Machine

/-!
PROOF. The frame-buffer commands addressed by position (spec/41_framebuffer.md): the two fills set every element of
their buffer, the two sets one element, `FBM.GET` answers one. Then the independence of the three memories
(spec/41_framebuffer.md R117, spec/43_protocol_driver.md R159).
-/

namespace Sys2Proof.Machine

/-! ### Filling a buffer -/

/-- A fill sets every element of `FB1`; a position outside the buffer reads as before. -/
theorem fb1Read_fill {s : State} (hs : MemoriesOk s) (v : Byte) (p : Nat) :
    fb1Read (fb1FillAll v s) p = if p < s.cfg.N1 then v else fb1Read s p := by
  rw [fb1Read_fb1FillAll]
  split_ifs with hp
  · rfl
  · exact (fb1Read_outside hs (not_lt.1 hp)).symm

/-- A fill sets every element of all eight strips; a position outside a strip reads as before. -/
theorem fbmRead_fill {s : State} (hs : MemoriesOk s) (v : Byte) (k : Fin 8) (p : Nat) :
    fbmRead (fbmFillAll v s) k p = if p < s.cfg.NM then v else fbmRead s k p := by
  rw [fbmRead_fbmFillAll]
  split_ifs with hp
  · rfl
  · exact (fbmRead_outside hs k (not_lt.1 hp)).symm

/-- A word of the format of the fills with a bit of `arg[31:8]` set (spec/30_encoding.md R74). -/
theorem decode_fill_of_reserved {m : Mnemonic} (hm : m.format = .V) {hi : BitVec 24} (h : hi ≠ 0) (val : Byte) :
    decode (m.opcode ++ (hi ++ val)) = .error .reservedBit := by
  have field : (hi ++ val).extractLsb' 8 24 = hi := BitVec.extractLsb'_append_eq_left
  exact decode_of_reserved_field (by rw [hm, Format.reserved]) fun hz => h (field.symm.trans hz)

/-- Settles O29: the fill completes when `val` is a palette index, and else the bound check faults. -/
theorem fb1FillSetsEveryElement : Obligations.Fb1FillSetsEveryElement := by
  intro val
  refine ⟨decode_encode (.fb1Fill val), fun hi hhi => decode_fill_of_reserved (m := .fb1Fill) rfl hhi val,
    fun s hs => ⟨fun h => ?_, fun h => exec_faults (if_pos h)⟩⟩
  obtain ⟨ht, completed, outside⟩ :=
    exec_completes (i := .fb1Fill val) (s := s) (if_neg (not_le.2 h)) nofun nofun
  exact ⟨_, ht, completed, fb1Read_fill hs val, fun _ => rfl, fun _ _ => rfl, outside⟩

/-- Settles O31: as `FB1.FILL`, on all eight strips. -/
theorem fbmFillSetsEveryElement : Obligations.FbmFillSetsEveryElement := by
  intro val
  refine ⟨decode_encode (.fbmFill val), fun hi hhi => decode_fill_of_reserved (m := .fbmFill) rfl hhi val,
    fun s hs => ⟨fun h => ?_, fun h => exec_faults (if_pos h)⟩⟩
  obtain ⟨ht, completed, outside⟩ :=
    exec_completes (i := .fbmFill val) (s := s) (if_neg (not_le.2 h)) nofun nofun
  exact ⟨_, ht, completed, fbmRead_fill hs val, fun _ => rfl, fun _ => rfl, outside⟩

/-! ### Setting one element -/

/-- Settles O30: the position is checked before the value (spec/60_exceptions.md R201). -/
theorem fb1SetSetsOneElement : Obligations.Fb1SetSetsOneElement := by
  intro pos val
  refine ⟨decode_encode (.fb1Set pos val), fun hi hhi => ?_, fun s hs =>
    ⟨fun hp hv => ?_, fun hp => exec_faults (if_pos hp),
      fun hp hv => exec_faults ((if_neg (not_le.2 hp)).trans (if_pos hv))⟩⟩
  · have field : (hi ++ pos ++ val : BitVec 32).extractLsb' 24 8 = hi :=
      field_eq _ _ (by rw [toNat_byte_half_byte]; omega)
    exact decode_of_reserved_field (m := .fb1Set) rfl fun h => hhi (field.symm.trans h)
  · obtain ⟨ht, completed, outside⟩ := exec_completes (i := .fb1Set pos val) (s := s)
      ((if_neg (not_le.2 hp)).trans (if_neg (not_le.2 hv))) nofun nofun
    exact ⟨_, ht, completed, fb1Read_fb1Write hs pos.toNat val, fun _ => rfl, fun _ _ => rfl, outside⟩

/-- The strip a checked strip operand names is the one of its number. -/
theorem eq_stripOf_iff {strip : Byte} (h : strip.toNat < 8) (k : Fin 8) :
    k = stripOf strip ↔ k.val = strip.toNat := by
  rw [Fin.ext_iff, stripOf, Fin.val_ofNat, Nat.mod_eq_of_lt h]

/-- Settles O32: strip and position are checked before the value (spec/60_exceptions.md R201). -/
theorem fbmSetSetsOneElement : Obligations.FbmSetSetsOneElement := by
  intro strip pos val
  refine ⟨decode_encode (.fbmSet strip pos val), fun s hs =>
    ⟨fun hk hp hv => ?_, fun h => exec_faults (if_pos h),
      fun hk hp hv => exec_faults ((if_neg (by omega)).trans (if_pos hv))⟩⟩
  obtain ⟨ht, completed, outside⟩ := exec_completes (i := .fbmSet strip pos val) (s := s)
    ((if_neg (by omega)).trans (if_neg (not_le.2 hv))) nofun nofun
  refine ⟨_, ht, completed, fun k p => ?_, fun _ => rfl, fun _ => rfl, outside⟩
  simp only [← eq_stripOf_iff hk]
  exact fbmRead_fbmWrite hs (stripOf strip) pos.toNat val k p

/-! ### Reading one element -/

/-- An index is answered zero extended (spec/20_memory.md R66). -/
theorem indexData_eq_append (v : Byte) : indexData v = 0#24 ++ v := BitVec.setWidth_eq_append (by decide)

/-- Settles O33: the answer is the element read; nothing is stored. -/
theorem fbmGetAnswersTheElement : Obligations.FbmGetAnswersTheElement := by
  intro strip pos
  refine ⟨decode_encode (.fbmGet strip pos), fun lo hlo => ?_, fun s =>
    ⟨fun k hk hp => ?_, fun h => exec_faults (if_pos h)⟩⟩
  · have field : (strip ++ pos ++ lo).extractLsb' 0 8 = lo := BitVec.extractLsb'_append_eq_right
    exact decode_of_reserved_field (m := .fbmGet) rfl fun h => hlo (field.symm.trans h)
  · have hstrip : strip.toNat < 8 := hk ▸ k.isLt
    obtain rfl := (eq_stripOf_iff hstrip k).2 hk
    obtain ⟨ht, completed, outside⟩ :=
      exec_completes (i := .fbmGet strip pos) (s := s) (if_neg (by omega)) nofun nofun
    rw [← indexData_eq_append]
    exact ⟨_, ht, completed, ⟨fun _ => rfl, fun _ => rfl, fun _ _ => rfl⟩, outside⟩

/-! ### The memories are independent -/

/-- A memory whose contents are as before, under the same parameters, reads as before. -/
theorem StoreKept.sameMemories {s t : State} (h : StoreKept s t) : SameMemories s t :=
  ⟨fun i => by rw [palRead, palRead, h.cfg, h.pal], fun p => by rw [fb1Read, fb1Read, h.fb1],
    fun k p => by rw [fbmRead, fbmRead, h.fbm]⟩

theorem memoryEffect_samePal {i : Instr} (s : State)
    (h : i.mnemonic ∉ [Mnemonic.palSetc, .palSetp, .palSethsv, .palCycle]) : SamePal s (memoryEffect i s) := by
  cases i with
  | palSetc | palSetp | palSethsv | palCycle => exact absurd (by simp [Instr.mnemonic]) h
  | _ => exact fun _ => rfl

theorem memoryEffect_sameFb1 {i : Instr} (s : State) (h : i.mnemonic ∉ [Mnemonic.fb1Fill, .fb1Set]) :
    SameFb1 s (memoryEffect i s) := by
  cases i with
  | fb1Fill | fb1Set => exact absurd (by simp [Instr.mnemonic]) h
  | _ => exact fun _ => rfl

theorem memoryEffect_sameFbm {i : Instr} (s : State) (h : i.mnemonic ∉ [Mnemonic.fbmFill, .fbmSet, .fbmSetxy]) :
    SameFbm s (memoryEffect i s) := by
  cases i with
  | fbmFill | fbmSet | fbmSetxy => exact absurd (by simp [Instr.mnemonic]) h
  | _ => exact fun _ _ => rfl

/-- Settles O34: a fault and a frame sent change no memory, an answered command at most that of its family. -/
theorem memoriesAreIndependent : Obligations.MemoriesAreIndependent := by
  intro i s t h
  obtain ⟨c, -, rfl⟩ | ⟨-, -, -, rfl⟩ | ⟨m, -, -, rfl⟩ := exec_cases h
  · obtain ⟨pal, fb1, fbm⟩ := (raise_faultedOnly c s).memories
    exact ⟨fun _ => pal, fun _ => fb1, fun _ => fbm⟩
  · exact ⟨memoryEffect_samePal s, memoryEffect_sameFb1 s, memoryEffect_sameFbm s⟩
  · obtain ⟨pal, fb1, fbm⟩ := (sendFrame_keeps m s).1.sameMemories
    exact ⟨fun _ => pal, fun _ => fb1, fun _ => fbm⟩

end Sys2Proof.Machine

/-!
PROOF. The coordinate transform (spec/42_transform.md): `rowcol` in bit terms and its inverse; then the commands that
use it, where `FBM.SETXY` and `FBM.GETXY` are `FBM.SET` and `FBM.GET` at the place `rowcol` gives; then the latch
length.
-/

namespace Sys2Proof.Machine

/-! ### The parts of a place -/

/-- The half of the panel is the top bit of the column. -/
theorem half_eq_div {x : Nat} (hx : x < 32) : half x = x / 16 := by
  rw [half]
  split_ifs <;> omega

/-- The fold index is the middle bits of the column, counted from the other end in half 1
(spec/42_transform.md R132). -/
theorem foldIndex_eq {x : Nat} (hx : x < 32) :
    foldIndex x = if x / 16 = 0 then x / 4 % 4 else 3 - x / 4 % 4 := by
  rw [foldIndex, half_eq_div hx]
  split_ifs <;> omega

/-- A strip index carries the half of the panel and the column within its group of four. -/
theorem stripIndex_eq {x : Nat} (hx : x < 32) : stripIndex x = x / 16 * 4 + x % 4 := by
  rw [stripIndex, half_eq_div hx, Nat.add_comm]

/-- A position carries the fold index and the row, counted from the other end on odd folds. -/
theorem position_eq (x y : Nat) :
    position x y = foldIndex x * 32 + if foldIndex x % 2 = 0 then y else 31 - y := by
  rw [position]
  split_ifs <;> rfl

theorem stripIndex_lt (x : Nat) : stripIndex x < 8 := by
  rw [stripIndex, half]
  split_ifs <;> omega

/-! ### The rule in bit terms -/

/-- The fold index in bit terms: `x[3:2]`, or its complement as `x[4]` is 1 (spec/42_transform.md R131). -/
def foldBits (x : BitVec 5) : BitVec 2 :=
  if x.getLsbD 4 then ~~~(x.extractLsb' 2 2) else x.extractLsb' 2 2

theorem getLsbD_four_iff (x : BitVec 5) : x.getLsbD 4 = true ↔ x.toNat / 16 ≠ 0 := by
  have := x.isLt
  rw [BitVec.getLsbD, Nat.testBit_eq_decide_div_mod_eq, decide_eq_true_eq]
  omega

theorem toNat_foldBits (x : BitVec 5) : (foldBits x).toNat = foldIndex x.toNat := by
  rw [foldBits, foldIndex_eq x.isLt]
  simp only [getLsbD_four_iff, ite_not]
  split_ifs
  · exact toNat_field x 2 2
  · rw [BitVec.toNat_not, toNat_field]
    rfl

theorem getLsbD_zero_foldBits (x : BitVec 5) :
    (foldBits x).getLsbD 0 = true ↔ ¬ foldIndex x.toNat % 2 = 0 := by
  rw [← toNat_foldBits, BitVec.getLsbD, Nat.testBit_zero, decide_eq_true_eq]
  omega

/-- Settles O35: a field appended to another is its number times a power of two, and a complement counts
from the other end. -/
theorem rowcolIsTheBitFormOfTheRule : Obligations.RowcolIsTheBitFormOfTheRule := by
  intro x y
  change (stripIndex x.toNat, position x.toNat y.toNat) =
    (_, (foldBits x ++ if (foldBits x).getLsbD 0 then ~~~y else y).toNat)
  congr 1
  · rw [toNat_append_eq, toNat_field, toNat_field, stripIndex_eq x.isLt]
    omega
  · rw [toNat_append_eq, toNat_foldBits, position_eq]
    simp only [getLsbD_zero_foldBits, ite_not, apply_ite BitVec.toNat, BitVec.toNat_not]
    rfl

/-! ### The inverse -/

theorem rowcolInv_rowcol {x y : Nat} (hx : x < 32) (hy : y < 32) :
    rowcolInv (rowcol x y).1 (rowcol x y).2 = (x, y) := by
  have fold : position x y / 32 = foldIndex x := by rw [position_eq]; split_ifs <;> omega
  have row : position x y % 32 = if foldIndex x % 2 = 0 then y else 31 - y := by
    rw [position_eq]; split_ifs <;> omega
  simp only [rowcol, rowcolInv, fold, row, stripIndex_eq hx]
  congr 1
  · rw [foldIndex_eq hx]
    split_ifs <;> omega
  · split_ifs <;> omega

/-- The column `rowcol_inv` gives is on the panel, and lies in the half, the group and the fold that the slot says. -/
theorem rowcolInv_column {s r : Nat} (hs : s < 8) (hr : r < 128) :
    (rowcolInv s r).1 < 32 ∧ stripIndex (rowcolInv s r).1 = s ∧ foldIndex (rowcolInv s r).1 = r / 32 := by
  have onPanel : (rowcolInv s r).1 < 32 := by simp only [rowcolInv]; split_ifs <;> omega
  refine ⟨onPanel, ?_, ?_⟩
  · rw [stripIndex_eq onPanel]
    simp only [rowcolInv]
    split_ifs <;> omega
  · rw [foldIndex_eq onPanel]
    simp only [rowcolInv]
    split_ifs <;> omega

theorem rowcol_rowcolInv {s r : Nat} (hs : s < 8) (hr : r < 128) :
    rowcol (rowcolInv s r).1 (rowcolInv s r).2 = (s, r) := by
  obtain ⟨-, strip, fold⟩ := rowcolInv_column hs hr
  rw [rowcol, position_eq, strip, fold]
  congr 1
  simp only [rowcolInv]
  split_ifs <;> omega

/-- Settles O36: each of the two functions undoes the other, and each stays in the other's domain. -/
theorem rowcolIsABijection : Obligations.RowcolIsABijection := by
  refine ⟨fun x hx y hy => ⟨Nat.le_of_lt_succ (stripIndex_lt x), Nat.le_of_lt_succ (position_lt hx hy),
    rowcolInv_rowcol hx hy⟩, fun s hs r hr => ⟨(rowcolInv_column hs hr).1, ?_, rowcol_rowcolInv hs hr⟩⟩
  simp only [rowcolInv]
  split_ifs <;> omega

/-! ### The commands on pixels -/

/-- The strip of a pixel is the one whose number `rowcol` gives. -/
theorem val_pixelStrip (x y : Byte) : (pixelStrip x y).val = (rowcol x.toNat y.toNat).1 :=
  Nat.mod_eq_of_lt (stripIndex_lt x.toNat)

/-- A word of the format of `XF.ROWCOL` and `FBM.GETXY` with a bit of `arg[15:0]` set (spec/30_encoding.md R74). -/
theorem decode_pixel_of_reserved {m : Mnemonic} (hm : m.format = .XG) {lo : BitVec 16} (h : lo ≠ 0) (x y : Byte) :
    decode (m.opcode ++ (x ++ y ++ lo)) = .error .reservedBit := by
  have field : (x ++ y ++ lo).extractLsb' 0 16 = lo := BitVec.extractLsb'_append_eq_right
  exact decode_of_reserved_field (by rw [hm, Format.reserved]) fun hz => h (field.symm.trans hz)

theorem toNat_ofNat_of_lt {w n : Nat} (h : n < 2 ^ w) : (BitVec.ofNat w n).toNat = n :=
  (BitVec.toNat_ofNat n w).trans (Nat.mod_eq_of_lt h)

/-- A place is answered as a number with the strip above the position (spec/20_memory.md R66). -/
theorem toNat_placeData {k p : Nat} (hk : k < 2 ^ 8) (hp : p < 2 ^ 16) :
    (placeData k p).toNat = k * 2 ^ 16 + p := by
  have whole := toNat_byte_byte_half 0x00#8 (BitVec.ofNat 8 k) (BitVec.ofNat 16 p)
  rw [toNat_ofNat_of_lt hk, toNat_ofNat_of_lt hp] at whole
  exact whole.trans (Nat.zero_add _)

/-- Settles O37: the answer is the place, both parts of which fit their fields; the geometry is checked first. -/
theorem xfRowcolAnswersThePlace : Obligations.XfRowcolAnswersThePlace := by
  intro x y
  refine ⟨decode_encode (.xfRowcol x y), fun lo hlo => decode_pixel_of_reserved (m := .xfRowcol) rfl hlo x y,
    fun s => ⟨fun hg hx hy => ?_, fun hg => exec_faults (if_pos hg),
      fun hg hc => exec_faults ((if_neg (not_not.2 hg)).trans (if_pos hc))⟩⟩
  obtain ⟨ht, completed, outside⟩ := exec_completes (i := .xfRowcol x y) (s := s)
    ((if_neg (not_not.2 hg)).trans (if_neg (by omega))) nofun nofun
  have strip := stripIndex_lt x.toNat
  have place := position_lt hx hy
  exact ⟨_, _, ht, ⟨completed, ⟨fun _ => rfl, fun _ => rfl, fun _ _ => rfl⟩, outside⟩,
    toNat_placeData (strip.trans (by decide)) (place.trans (by decide))⟩

/-- Settles O38: geometry, coordinate and value are checked in this order, and the one element set is that of
the place `rowcol` gives. -/
theorem fbmSetxyStoresAtThePlace : Obligations.FbmSetxyStoresAtThePlace := by
  intro x y val
  refine ⟨decode_encode (.fbmSetxy x y val), fun mid hmid => ?_, fun s hs =>
    ⟨fun hg hx hy hv => ?_, fun hg => exec_faults (if_pos hg),
      fun hg hc => exec_faults ((if_neg (not_not.2 hg)).trans (if_pos hc)),
      fun hg hx hy hv => exec_faults
        ((if_neg (not_not.2 hg)).trans ((if_neg (by omega)).trans (if_pos hv)))⟩⟩
  · have field : (x ++ y ++ mid ++ val : BitVec 32).extractLsb' 8 8 = mid :=
      field_eq _ _ (by rw [toNat_bytes4]; omega)
    exact decode_of_reserved_field (m := .fbmSetxy) rfl fun h => hmid (field.symm.trans h)
  · obtain ⟨ht, completed, outside⟩ := exec_completes (i := .fbmSetxy x y val) (s := s)
      ((if_neg (not_not.2 hg)).trans ((if_neg (by omega)).trans (if_neg (not_le.2 hv)))) nofun nofun
    refine ⟨_, ht, completed, fun k p => ?_, fun _ => rfl, fun _ => rfl, outside⟩
    have atPlace : (k.val, p) = rowcol x.toNat y.toNat ↔ k = pixelStrip x y ∧ p = pixelPos x y := by
      rw [Fin.ext_iff, val_pixelStrip, Prod.ext_iff, pixelPos]
    simp only [atPlace]
    exact fbmRead_fbmWrite hs (pixelStrip x y) (pixelPos x y) val k p

/-- Settles O39: the answer is the element at the place `rowcol` gives; nothing is stored. -/
theorem fbmGetxyAnswersTheElement : Obligations.FbmGetxyAnswersTheElement := by
  intro x y
  refine ⟨decode_encode (.fbmGetxy x y), fun lo hlo => decode_pixel_of_reserved (m := .fbmGetxy) rfl hlo x y,
    fun s => ⟨fun k hg hx hy hk => ?_, fun hg => exec_faults (if_pos hg),
      fun hg hc => exec_faults ((if_neg (not_not.2 hg)).trans (if_pos hc))⟩⟩
  obtain rfl : k = pixelStrip x y := Fin.ext (hk.trans (val_pixelStrip x y).symm)
  obtain ⟨ht, completed, outside⟩ := exec_completes (i := .fbmGetxy x y) (s := s)
    ((if_neg (not_not.2 hg)).trans (if_neg (by omega))) nofun nofun
  rw [← indexData_eq_append]
  exact ⟨_, ht, completed, ⟨fun _ => rfl, fun _ => rfl, fun _ _ => rfl⟩, outside⟩

/-! ### Two addressing modes -/

/-- Two commands that are no render end alike when they expect the same fault, answer the same and store the same. -/
theorem exec_eq_exec {i j : Instr} {s : State} (hi : i ≠ .renderS ∧ i ≠ .renderM)
    (hj : j ≠ .renderS ∧ j ≠ .renderM)
    (fault : expectedFault s.cfg i = expectedFault s.cfg j) (answer : answerOf i s = answerOf j s)
    (effect : memoryEffect i s = memoryEffect j s) : exec i s = exec j s := by
  rw [exec_eq_of_not_render i s hi.1 hi.2, exec_eq_of_not_render j s hj.1 hj.2, fault, answer, effect]

/-- Settles O40: the operands `s` and `r` name the pixel's place, which is within the strips, so that only the
value can be at fault. -/
theorem pixelAccessIsPlaceAccess : Obligations.PixelAccessIsPlaceAccess := by
  intro x y val s hg hx hy
  have strip_lt := stripIndex_lt x.toNat
  have pos_lt := position_lt hx hy
  have strip : (BitVec.ofNat 8 (rowcol x.toNat y.toNat).1).toNat = (rowcol x.toNat y.toNat).1 :=
    toNat_ofNat_of_lt (strip_lt.trans (by decide))
  have pos : (BitVec.ofNat 16 (rowcol x.toNat y.toNat).2).toNat = (rowcol x.toNat y.toNat).2 :=
    toNat_ofNat_of_lt (pos_lt.trans (by decide))
  have onPanel : ¬ (32 ≤ x.toNat ∨ 32 ≤ y.toNat) := by omega
  have inStrips : ¬ (8 ≤ (rowcol x.toNat y.toNat).1 ∨ s.cfg.NM ≤ (rowcol x.toNat y.toNat).2) := by
    rw [hg]; exact not_or.2 ⟨not_le.2 strip_lt, not_le.2 pos_lt⟩
  have samePlace : stripOf (BitVec.ofNat 8 (rowcol x.toNat y.toNat).1) = pixelStrip x y := by
    rw [stripOf, strip, pixelStrip]
  refine ⟨exec_eq_exec ⟨nofun, nofun⟩ ⟨nofun, nofun⟩ ?_ rfl ?_,
    exec_eq_exec ⟨nofun, nofun⟩ ⟨nofun, nofun⟩ ?_ ?_ rfl⟩
  · simp only [expectedFault, strip, pos, if_neg (not_not.2 hg), if_neg onPanel, if_neg inStrips]
  · rw [memoryEffect, memoryEffect, samePlace, pos, pixelPos]
  · simp only [expectedFault, strip, pos, if_neg (not_not.2 hg), if_neg onPanel, if_neg inStrips]
  · rw [answerOf, answerOf, samePlace, pos, pixelPos]

/-! ### The latch length -/

/-- The rounding up of `n / 32` in 17 bits, where the sum cannot overflow (spec/42_transform.md R141). -/
theorem toNat_latchBits (n : BitVec 16) : ((n.setWidth 17 + 31#17) >>> 5).toNat = latchBytes n.toNat := by
  have := n.isLt
  rw [BitVec.toNat_ushiftRight, Nat.shiftRight_eq_div_pow, BitVec.toNat_add, BitVec.toNat_setWidth, latchBytes,
    BitVec.toNat_ofNat]
  omega

/-- Settles O41: no operand faults, and the answer fits its 32 bits. -/
theorem xfLatchlenAnswersTheCeiling : Obligations.XfLatchlenAnswersTheCeiling := by
  intro n
  refine ⟨decode_encode (.xfLatchlen n), fun hi hhi => ?_, fun s => ?_⟩
  · have field : (hi ++ n).extractLsb' 16 16 = hi := BitVec.extractLsb'_append_eq_left
    exact decode_of_reserved_field (m := .xfLatchlen) rfl fun h => hhi (field.symm.trans h)
  · obtain ⟨ht, completed, outside⟩ := exec_completes (i := .xfLatchlen n) (s := s) rfl nofun nofun
    have answer : (answerOf (.xfLatchlen n) s).toNat = (n.toNat + 31) / 32 :=
      toNat_ofNat_of_lt (by have := n.isLt; rw [latchBytes]; omega)
    refine ⟨_, _, ht, ⟨completed, ⟨fun _ => rfl, fun _ => rfl, fun _ _ => rfl⟩, outside⟩, ?_, ?_, ?_⟩
    · rw [answer]; omega
    · rw [answer]; omega
    · rw [← BitVec.ofNat_toNat, toNat_latchBits]
      rfl

end Sys2Proof.Machine

/-!
PROOF. The protocol driver (spec/43_protocol_driver.md). A frame is a run of slots: how many entries and edges it
adds, which bytes each line receives, and that a line that is not active stays dark, each said of one slot first.
Then the whole frame `RENDER.S` and `RENDER.M` send, what they read, and when they stop. Last, that no state that
meets the invariant stops.
-/

namespace Sys2Proof.Machine

/-! ### The bytes of a frame -/

@[simp] theorem colourByte_high (c : Byte) : (colourByte c).getLsbD 7 = true := by
  have one : (0x80 : Byte).getLsbD 7 = true := rfl
  rw [colourByte, BitVec.getLsbD_or, one, Bool.or_true]

theorem colourByte_low (c : Byte) {i : Nat} (h : i < 7) : (colourByte c).getLsbD i = c.getLsbD i := by
  have zero : ∀ i < 7, (0x80 : Byte).getLsbD i = false := by decide
  rw [colourByte, BitVec.getLsbD_or, zero i h, Bool.or_false]

/-- The byte `j` of a colour entry in wire order: green, red, blue (spec/10_state.md R22). -/
def wireChannel (c : Color) (j : Nat) : Byte := if j = 0 then c.g else if j = 1 then c.r else c.b

/-- The colour bytes of a frame, each by its place in the stream (spec/43_protocol_driver.md R153). -/
theorem colourBytes_eq_map (e : Nat → Color) (n : Nat) :
    ((List.range n).flatMap fun p => [colourByte (e p).g, colourByte (e p).r, colourByte (e p).b]) =
      (List.range (3 * n)).map fun q => colourByte (wireChannel (e (q / 3)) (q % 3)) := by
  induction n with
  | zero => rfl
  | succ n ih =>
    have third : (3 * n + 1) / 3 = n ∧ (3 * n + 2) / 3 = n := by omega
    rw [List.range_succ, List.flatMap_append, ih, Nat.mul_succ, List.range_add, List.map_append]
    simp [List.range_succ, wireChannel, third, Nat.add_mod]

theorem frameBytes_eq (e : Nat → Color) (n : Nat) :
    frameBytes e n = ((List.range (3 * n)).map fun q => colourByte (wireChannel (e (q / 3)) (q % 3))) ++
      List.replicate (latchBytes n) 0x00 := by
  rw [frameBytes, colourBytes_eq_map]

/-- Settles O45: the colour bytes are listed by their place, and the latch run follows them. -/
theorem frameBytesAreColourThenLatch : Obligations.FrameBytesAreColourThenLatch := by
  intro e n
  rw [frameBytes_eq]
  refine ⟨by simp [latchBytes], fun p hp j hj => ?_, fun q h1 h2 => ?_⟩
  · have place : (3 * p + j) / 3 = p ∧ (3 * p + j) % 3 = j := by omega
    refine ⟨colourByte (wireChannel (e p) j), ?_, colourByte_high _, fun i hi => colourByte_low _ hi⟩
    rw [List.getElem?_append_left (by simp; omega), List.getElem?_map, List.getElem?_range (by omega),
      Option.map_some, place.1, place.2]
  · rw [List.getElem?_append_right (by simpa using h1), List.getElem?_replicate, if_pos]
    simp only [List.length_map, List.length_range, latchBytes]
    omega

/-- The bytes a line receives from a frame: those of its strip when it is active, and else none. -/
theorem lineBytes_frameOnWire (k : Fin 8) (act : Byte) (n : Nat) (e : Fin 8 → Nat → Color) :
    lineBytes k (frameOnWire act n e) = if lineBit act k then frameBytes (e k) n else [] := by
  rw [frameOnWire, lineBytes_slots]
  split_ifs with hk
  · simp [frameBytes, List.map_flatMap, hk]
  · rfl

/-! ### The entries of a frame -/

theorem length_flatMap_slotWire {α : Type} (l : List α) (b : α → Lanes Byte) (act : Byte) :
    (l.flatMap fun x => slotWire (b x) act).length = 25 * l.length := by
  induction l with
  | nil => rfl
  | cons x l ih => rw [List.flatMap_cons, List.length_append, length_slotWire, ih, List.length_cons]; omega

theorem length_edges_flatMap_slotWire {α : Type} (l : List α) (b : α → Lanes Byte) (act : Byte) :
    (edges (l.flatMap fun x => slotWire (b x) act)).length = 8 * l.length := by
  induction l with
  | nil => rfl
  | cons x l ih =>
    rw [List.flatMap_cons, edges_append, List.length_append, length_edges_slotWire, ih, List.length_cons]; omega

/-- The counts of spec/43_protocol_driver.md R155 and spec/44_bit_transmit.md R180. -/
theorem frameWire_counts (m : RenderMode) (s : State) :
    (frameWire m s).length = 25 * (3 * m.length s.cfg + (m.length s.cfg + 31) / 32) ∧
      (edges (frameWire m s)).length = 8 * (3 * m.length s.cfg + (m.length s.cfg + 31) / 32) := by
  have slots : (frameSlots m s.cfg).length = 3 * m.length s.cfg + (m.length s.cfg + 31) / 32 :=
    length_frameSlots m s.cfg
  exact ⟨(length_flatMap_slotWire ..).trans (by rw [slots]), (length_edges_flatMap_slotWire ..).trans (by rw [slots])⟩

/-- Every entry of a slot has the select of the active lines or none, and carries bits of the slot's bytes. -/
theorem mem_slotWire {b : Lanes Byte} {act : Byte} {p : Pins} (h : p ∈ slotWire b act) :
    (p.sel = act ∨ p.sel = 0) ∧ ∃ j, p.data = dataBits b act j := by
  simp only [slotWire, List.mem_append, List.mem_flatMap, bitWire, List.mem_cons, List.not_mem_nil, or_false] at h
  obtain ⟨j, -, rfl | rfl | rfl⟩ | rfl := h
  · exact ⟨.inl rfl, j, rfl⟩
  · exact ⟨.inl rfl, j, rfl⟩
  · exact ⟨.inl rfl, j, rfl⟩
  · exact ⟨.inr rfl, 0, rfl⟩

/-- A line that is not active is dark in every entry of a slot (spec/43_protocol_driver.md R160). -/
theorem slotWire_dark {b : Lanes Byte} {act : Byte} {k : Fin 8} (hk : lineBit act k = false) {p : Pins}
    (h : p ∈ slotWire b act) : lineBit p.sel k = false ∧ lineBit p.data k = false := by
  obtain ⟨hsel, j, hdata⟩ := mem_slotWire h
  refine ⟨?_, by rw [hdata, lineBit_dataBits, hk, Bool.false_and]⟩
  obtain hsel | hsel := hsel
  · rw [hsel, hk]
  · rw [hsel]; exact lineBit_zero k

theorem frameWire_dark {m : RenderMode} {s : State} {k : Fin 8} (hk : lineBit (m.lines s.cfg) k = false) :
    ∀ p ∈ frameWire m s, lineBit p.sel k = false ∧ lineBit p.data k = false := by
  intro p hp
  obtain ⟨_, -, hp⟩ := List.mem_flatMap.1 hp
  exact slotWire_dark hk hp

/-! ### A render as a whole -/

theorem renderFrame_eq_next {m : RenderMode} {s t : State} :
    renderFrame m s = .next t ↔ frameReadable m s = true ∧ t = sendFrame m s := by
  rw [renderFrame_eq]
  split_ifs with hr <;> simp [hr, eq_comm]

section
variable (m : RenderMode) (s : State)

theorem wireTrace_sendFrame (h : s.ledClk = false) : wireTrace (sendFrame m s) = wireTrace s ++ frameWire m s := by
  have sent : (sendFrame m s).wire = (frameWire m s).reverse ++ s.wire := (sendFrame_sent m s h).wire
  rw [wireTrace, sent, List.reverse_append, List.reverse_reverse, wireTrace]

theorem sendFrame_completed : Completed 0 s (sendFrame m s) :=
  ⟨rfl, rfl, rfl, rfl, (sendFrame_keeps m s).1.fault, (sendFrame_keeps m s).2⟩

theorem sendFrame_setting (h : s.ledClk = false) : SameSetting s (sendFrame m s) := by
  have sent := sendFrame_sent m s h
  exact ⟨sent.cfg, sent.cmdrOp, sent.cmdrArg, sent.host⟩

theorem sendFrame_act (h : s.ledClk = false) : (sendFrame m s).act = m.lines s.cfg := (sendFrame_sent m s h).act

/-- A render of a readable frame from `LED_CLK = 0`: it completes, the wire gains the frame pin state by pin
state, and the pins and the sequencer end at rest (spec/43_protocol_driver.md R153, R156, R159). -/
theorem renderFrame_sendsFrame (h : s.ledClk = false) (hr : frameReadable m s = true) :
    ∃ t, renderFrame m s = .next t ∧ Completed 0 s t ∧
      wireTrace t = wireTrace s ++ frameOnWire (m.lines s.cfg) (m.length s.cfg)
        (fun k p => palRead s (frameIndex m s k p).toNat) ∧
      SameMemories s t ∧ SameSetting s t ∧ t.act = m.lines s.cfg ∧ t.stage = .none ∧ t.phase = .idle ∧
      t.ledClk = false ∧ t.ledData = 0x00 ∧ t.ledSel = 0x00 := by
  obtain ⟨hphase, hpins, -⟩ := sendFrame_atRest m s h
  refine ⟨sendFrame m s, renderFrame_eq_next.2 ⟨hr, rfl⟩, sendFrame_completed m s, ?_,
    (sendFrame_keeps m s).1.sameMemories, sendFrame_setting m s h, sendFrame_act m s h, rfl, hphase,
    congrArg Pins.clk hpins, congrArg Pins.data hpins, congrArg Pins.sel hpins⟩
  rw [wireTrace_sendFrame m s h, frameWire_eq]

end

/-- A render word with a bit of `arg` set is no command (spec/30_encoding.md R74). -/
theorem decode_render_of_reserved {m : Mnemonic} (hm : m.format = .Z) {arg : BitVec 32} (h : arg ≠ 0) :
    decode (m.opcode ++ arg) = .error .reservedBit := by
  have field : arg.extractLsb' 0 32 = arg := BitVec.extractLsb'_eq_self
  exact decode_of_reserved_field (by rw [hm, Format.reserved]) fun hz => h (field.symm.trans hz)

/-- `RENDER.S` is active on its one line (spec/43_protocol_driver.md R153). -/
@[simp] theorem lineBit_singleLine (c : Config) (k : Fin 8) :
    lineBit (RenderMode.single.lines c) k = decide (k = c.singleLine) := lineBit_shift c.singleLine k

/-- Settles O42: the active line is `SINGLE_LINE`, which reads `FB1`. -/
theorem renderSSendsTheFrame : Obligations.RenderSSendsTheFrame := by
  refine ⟨decode_encode .renderS, fun _ => decode_render_of_reserved (m := .renderS) rfl, fun s hc hi => ?_⟩
  have readable := (frameReadable_iff .single s).2 fun p hp _ _ => hi p hp
  obtain ⟨t, ht, completed, wire, memories, setting, rest⟩ := renderFrame_sendsFrame .single s hc readable
  refine ⟨t, _, ht, completed, wire, ?_, fun k hk => ?_, rfl, memories, setting, rest⟩
  · exact (lineBytes_frameOnWire ..).trans (if_pos (by simp))
  · exact (lineBytes_frameOnWire ..).trans (if_neg (by simpa using hk))

/-- Settles O43: the active lines are those of `LINE_MASK`, each of which reads its strip of `FBM`. -/
theorem renderMSendsTheFrames : Obligations.RenderMSendsTheFrames := by
  refine ⟨decode_encode .renderM, fun _ => decode_render_of_reserved (m := .renderM) rfl, fun s hc hi => ?_⟩
  have readable := (frameReadable_iff .multi s).2 fun p hp k hk => hi k hk p hp
  obtain ⟨t, ht, completed, wire, memories, setting, rest⟩ := renderFrame_sendsFrame .multi s hc readable
  exact ⟨t, _, ht, completed, wire, fun k => lineBytes_frameOnWire k _ _ _, rfl, memories, setting, rest⟩

/-- A render from `LED_CLK = 0` that ends adds its frame to the wire. -/
theorem renderFrame_adds {m : RenderMode} {s t : State} (hc : s.ledClk = false) (h : renderFrame m s = .next t) :
    wireTrace t = wireTrace s ++ frameWire m s := by
  obtain ⟨-, rfl⟩ := renderFrame_eq_next.1 h
  exact wireTrace_sendFrame m s hc

/-- Settles O44: both renders add the entries and edges of their slots. -/
theorem renderAddsTheCountedEntries : Obligations.RenderAddsTheCountedEntries := fun s _ hc =>
  ⟨fun h => ⟨_, renderFrame_adds hc h, frameWire_counts .single s⟩,
    fun h => ⟨_, renderFrame_adds hc h, frameWire_counts .multi s⟩⟩

/-- Settles O46: a line outside the mask of the render is dark in every slot. -/
theorem inactiveLinesStayDark : Obligations.InactiveLinesStayDark := fun _ _ _ hc =>
  ⟨fun h hk => ⟨_, renderFrame_adds hc h,
      frameWire_dark (m := .single) ((lineBit_singleLine ..).trans (decide_eq_false hk))⟩,
    fun h hk => ⟨_, renderFrame_adds hc h, frameWire_dark (m := .multi) hk⟩⟩

/-! ### What a render reads -/

/-- The state with other frame buffers. -/
def withBuffers (fb1 : List Host.Cell) (fbm : Lanes (List Host.Cell)) (s : State) : State :=
  { s with fb1 := fb1, fbm := fbm }

/-- On the lines in `act`, mode `m` reads from the buffers `fb1`, `fbm` what it reads from those of `s`. -/
def SameShown (m : RenderMode) (act : Byte) (fb1 : List Host.Cell) (fbm : Lanes (List Host.Cell)) (s : State) : Prop :=
  ∀ k p, lineBit act k = true → frameIndex m (withBuffers fb1 fbm s) k p = frameIndex m s k p

section
variable {m : RenderMode} {fb1 : List Host.Cell} {fbm : Lanes (List Host.Cell)} {s : State}

/-- What the buffers of a state show depends on its buffers only. -/
theorem SameShown.congr {act : Byte} {t : State} (h : SameShown m act fb1 fbm s) (h1 : t.fb1 = s.fb1)
    (hm : t.fbm = s.fbm) : SameShown m act fb1 fbm t := by
  intro k p hk
  have shown := h k p hk
  cases m with
  | single => rwa [frameIndex, frameIndex, fb1Read, fb1Read, h1]
  | multi => rwa [frameIndex, frameIndex, fbmRead, fbmRead, hm]

theorem frameReadable_withBuffers (h : SameShown m (m.lines s.cfg) fb1 fbm s) :
    frameReadable m (withBuffers fb1 fbm s) = frameReadable m s := by
  rw [Bool.eq_iff_iff, frameReadable_iff, frameReadable_iff]
  refine forall₂_congr fun p _ => forall₂_congr fun _ hk => ?_
  rw [h _ p hk]
  rfl

theorem payloadByte_withBuffers (h : SameShown m s.act fb1 fbm s) (p : Nat) (comp : BitVec 2) (k : Fin 8) :
    payloadByte m (withBuffers fb1 fbm s) p comp k = payloadByte m s p comp k :=
  ite_congr rfl
    (fun hk => congrArg (fun v : Byte => colourByte (colourComponent (palRead s v.toNat) comp)) (h k p hk)) fun _ => rfl

theorem slotBytes_seekSlot_withBuffers (h : SameShown m s.act fb1 fbm s) (sl : Slot) :
    slotBytes m (seekSlot sl (withBuffers fb1 fbm s)) = slotBytes m (seekSlot sl s) := by
  cases sl with
  | latch n => rfl
  | colour p comp =>
    have shown : SameShown m s.act fb1 fbm (seekSlot (.colour p comp) s) := h.congr rfl rfl
    exact congrArg Lanes.ofFn (funext (payloadByte_withBuffers shown p.toNat comp))

theorem txBits_withBuffers (n : Nat) (s : State) :
    txBits n (withBuffers fb1 fbm s) = withBuffers fb1 fbm (txBits n s) := by
  induction n generalizing s with
  | zero => rfl
  | succ n ih => exact ih (phaseClockLow (phaseClockHigh (phaseSetData n s)))

theorem txSlot_withBuffers (b : Lanes Byte) (s : State) :
    txSlot b (withBuffers fb1 fbm s) = withBuffers fb1 fbm (txSlot b s) :=
  congrArg phaseIdle (txBits_withBuffers 8 { s with shift := b })

theorem seekSlot_withBuffers (sl : Slot) (s : State) :
    seekSlot sl (withBuffers fb1 fbm s) = withBuffers fb1 fbm (seekSlot sl s) := by
  cases sl <;> rfl

theorem sendSlot_withBuffers (h : SameShown m s.act fb1 fbm s) (sl : Slot) :
    sendSlot m (withBuffers fb1 fbm s) sl = withBuffers fb1 fbm (sendSlot m s sl) := by
  rw [sendSlot, slotBytes_seekSlot_withBuffers h, seekSlot_withBuffers, txSlot_withBuffers, sendSlot]

theorem sendSlot_act (m : RenderMode) (s : State) (sl : Slot) : (sendSlot m s sl).act = s.act := by
  cases sl <;> simp [sendSlot, txSlot, txBits, seekSlot]

theorem foldl_sendSlot_withBuffers (l : List Slot) (h : SameShown m s.act fb1 fbm s) :
    l.foldl (sendSlot m) (withBuffers fb1 fbm s) = withBuffers fb1 fbm (l.foldl (sendSlot m) s) := by
  induction l generalizing s with
  | nil => rfl
  | cons sl l ih =>
    have kept := (sendSlot_keeps m s sl).1
    have shown : SameShown m (sendSlot m s sl).act fb1 fbm (sendSlot m s sl) :=
      sendSlot_act m s sl ▸ h.congr kept.fb1 kept.fbm
    rw [List.foldl_cons, sendSlot_withBuffers h, ih shown, List.foldl_cons]

/-- A render reads the memory of its mode on its active lines and no other frame-buffer element. -/
theorem renderFrame_withBuffers {t : State} (h : SameShown m (m.lines s.cfg) fb1 fbm s)
    (ht : renderFrame m s = .next t) : renderFrame m (withBuffers fb1 fbm s) = .next (withBuffers fb1 fbm t) := by
  obtain ⟨readable, rfl⟩ := renderFrame_eq_next.1 ht
  have sent := foldl_sendSlot_withBuffers (frameSlots m s.cfg) (s := renderStart m s) (h.congr rfl rfl)
  exact renderFrame_eq_next.2 ⟨(frameReadable_withBuffers h).trans readable, congrArg renderFinish sent.symm⟩

theorem withBuffers_eq_withFbm (h : fb1 = s.fb1) : withBuffers fb1 fbm s = { s with fbm := fbm } := by
  rw [h, withBuffers]

theorem withBuffers_eq_withFb1 (h : fbm = s.fbm) : withBuffers fb1 fbm s = { s with fb1 := fb1 } := by
  rw [h, withBuffers]

/-- A render ends alike but for `FBM` with another `FBM` that shows the same. -/
theorem renderFrame_withFbm {t : State} (h : SameShown m (m.lines s.cfg) s.fb1 fbm s)
    (ht : renderFrame m s = .next t) : renderFrame m { s with fbm := fbm } = .next { t with fbm := fbm } := by
  have other := renderFrame_withBuffers h ht
  obtain ⟨-, rfl⟩ := renderFrame_eq_next.1 ht
  rwa [withBuffers_eq_withFbm rfl, withBuffers_eq_withFbm (sendFrame_keeps m s).1.fb1.symm] at other

/-- A render ends alike but for `FB1` with another `FB1` that shows the same. -/
theorem renderFrame_withFb1 {t : State} (h : SameShown m (m.lines s.cfg) fb1 s.fbm s)
    (ht : renderFrame m s = .next t) : renderFrame m { s with fb1 := fb1 } = .next { t with fb1 := fb1 } := by
  have other := renderFrame_withBuffers h ht
  obtain ⟨-, rfl⟩ := renderFrame_eq_next.1 ht
  rwa [withBuffers_eq_withFb1 rfl, withBuffers_eq_withFb1 (sendFrame_keeps m s).1.fbm.symm] at other

end

/-- Settles O47: `RENDER.S` never reads `FBM`, `RENDER.M` never `FB1`, nor a strip of an inactive line. -/
theorem renderReadsItsOwnBufferOnly : Obligations.RenderReadsItsOwnBufferOnly :=
  ⟨fun _ _ _ => renderFrame_withFbm (m := .single) fun _ _ _ => rfl,
    fun _ _ _ => renderFrame_withFb1 (m := .multi) fun _ _ _ => rfl,
    fun _ _ _ hf => renderFrame_withFbm (m := .multi) fun k p hk => congrArg (Memory.read 0 · p) (hf k hk)⟩

/-! ### When a render stops, and when no step does -/

/-- A render that would read an index outside the palette on an active line stops (spec/43_protocol_driver.md R158). -/
theorem renderFrame_stops {m : RenderMode} {s : State} {k : Fin 8} {p : Nat} (hp : p < m.length s.cfg)
    (hk : lineBit (m.lines s.cfg) k = true) (h : s.cfg.P ≤ (frameIndex m s k p).toNat) :
    renderFrame m s = .fault .paletteIndexAtRender := by
  rw [renderFrame_eq]
  exact if_neg fun readable => absurd ((frameReadable_iff m s).1 readable p hp k hk) (not_lt.2 h)

/-- Settles O48: line `SINGLE_LINE` shows `FB1`, an active line of `RENDER.M` its strip. -/
theorem renderStopsOnAnIndexOutsideThePalette : Obligations.RenderStopsOnAnIndexOutsideThePalette :=
  ⟨fun s _ hp h => renderFrame_stops (m := .single) (k := s.cfg.singleLine) hp (by simp) h,
    fun _ _ _ hp hk h => renderFrame_stops (m := .multi) hp hk h⟩

theorem exec_answers_of_not_render {i : Instr} (s : State) (hs : i ≠ .renderS) (hm : i ≠ .renderM) :
    ∃ t, exec i s = .next t := by
  cases hf : expectedFault s.cfg i with
  | some c => exact ⟨_, exec_of_fault hf⟩
  | none => exact ⟨_, exec_of_no_fault hf hs hm⟩

/-- No command stops while every frame-buffer element is a palette index. -/
theorem exec_answers (i : Instr) {s : State} (h : IndicesOk s) : ∃ t, exec i s = .next t := by
  cases i with
  | renderS => exact ⟨_, renderFrame_eq_next.2 ⟨frameReadable_of_indicesOk .single h, rfl⟩⟩
  | renderM => exact ⟨_, renderFrame_eq_next.2 ⟨frameReadable_of_indicesOk .multi h, rfl⟩⟩
  | _ => exact exec_answers_of_not_render s nofun nofun

theorem runCommand_answers {s : State} (h : IndicesOk s) : ∃ t, runCommand s = .next t := by
  cases hf : fetch s with
  | error r => exact ⟨_, runCommand_of_fetch_error hf⟩
  | ok i => rw [runCommand_of_fetch_ok hf]; exact exec_answers i h

/-- A render in progress over palette indices has its next phase step (spec/44_bit_transmit.md R174). -/
theorem renderPhase_answers {m : RenderMode} {s : State} (hs : s.stage ≠ .none) (h : RenderOk m s)
    (hi : IndicesOk s) : ∃ t, renderPhase m s = .next t := by
  cases hp : s.phase with
  | idle =>
    cases hg : s.stage with
    | none => exact absurd hg hs
    | payload =>
      have place := h.place hg
      have readable : positionReadable m s.act s s.pos.toNat = true := by
        rw [h.lines]
        exact List.all_eq_true.1 (frameReadable_of_indicesOk m hi) _ (List.mem_range.2 place.1)
      exact ⟨_, renderPhase_payload hp hg (decide_eq_true place) readable⟩
    | latch =>
      rw [renderPhase_latch hp hg]
      split_ifs <;> exact ⟨_, rfl⟩
  | setData => exact ⟨phaseClockHigh s, by rw [renderPhase, hp]⟩
  | clockHigh => exact ⟨phaseClockLow s, by rw [renderPhase, hp]⟩
  | clockLow =>
    simp only [renderPhase, hp]
    split_ifs <;> exact ⟨_, rfl⟩

theorem blockStep_answers {s : State} (h : BlockInv s) : ∃ t, blockStep s = .next t := by
  by_cases hs : s.stage = .none
  · cases hm : activeMode s with
    | none => rw [blockStep_of_command hs hm]; exact runCommand_answers h.indices
    | some m => exact ⟨_, blockStep_of_start hs hm⟩
  · obtain ⟨m, hr⟩ := h.sequencer.active hs
    rw [blockStep_of_render hs hr.mode]
    exact renderPhase_answers hs hr h.indices

/-- Settles O60: a reset and a wait never stop, and a block step and an accepted command answer. -/
theorem noStepStops : Obligations.NoStepStops := by
  intro s h
  have taken := blockInv_withHost h s.host.tail
  unfold step machineStep reactTo
  split_ifs with hr hb hv hw
  · exact ⟨_, rfl⟩
  · exact blockStep_answers taken
  · exact runCommand_answers (indicesOk_congr taken.indices rfl rfl rfl)
  · exact ⟨_, rfl⟩
  · exact ⟨_, rfl⟩

end Sys2Proof.Machine

/-!
PROOF. The bit-level primitive (spec/44_bit_transmit.md): what one slot puts on the wire, the phase steps of a
render as the transitions of R174, the pins around the clock (R175), and the wire at rest (R176). The first is
read off the 25 entries of a slot, the others off the cases of a step.
-/

namespace Sys2Proof.Machine

/-! ### One slot -/

/-- The entries and the edge of the `j`th bit sent, bit `7 - j` of the bytes (spec/44_bit_transmit.md R173, R178). -/
theorem getElem?_slotWire (b : Lanes Byte) (act : Byte) {j : Nat} (hj : j < 8) :
    (slotWire b act)[3 * j]? = some ⟨false, dataBits b act (7 - j), act⟩ ∧
      (slotWire b act)[3 * j + 1]? = some ⟨true, dataBits b act (7 - j), act⟩ ∧
      (slotWire b act)[3 * j + 2]? = some ⟨false, dataBits b act (7 - j), act⟩ ∧
      (edges (slotWire b act))[j]? = some (dataBits b act (7 - j), act) := by
  rw [edges_slotWire]
  interval_cases j <;> exact ⟨rfl, rfl, rfl, rfl⟩

/-- A slot gives each selected line its byte and the others none (spec/44_bit_transmit.md R179). -/
theorem lineBytes_slotWire (k : Fin 8) (b : Lanes Byte) (act : Byte) :
    lineBytes k (slotWire b act) = if lineBit act k then [b.get k] else [] := by
  simpa using lineBytes_slots k act [b]

/-- Settles O49: from `LED_CLK = 0` a slot adds the 25 entries of `slotWire` and ends at rest. -/
theorem slotSendsOneByteOnEveryActiveLine : Obligations.SlotSendsOneByteOnEveryActiveLine := by
  intro b s hc
  rw [txSlot_eq b s hc]
  refine ⟨slotWire b s.act, by simp [wireTrace], length_slotWire .., length_edges_slotWire .., fun j hj => ?_,
    ⟨dataBits b s.act 0, rfl, lineBit_dataBits b s.act 0⟩, fun k => lineBytes_slotWire k b s.act,
    rfl, rfl, rfl, rfl, rfl, rfl, ⟨fun _ => rfl, fun _ => rfl, fun _ _ => rfl⟩⟩
  obtain ⟨low, high, lowAgain, edge⟩ := getElem?_slotWire b s.act hj
  exact ⟨dataBits b s.act (7 - j), low, high, lowAgain, edge, lineBit_dataBits b s.act (7 - j)⟩

/-! ### The phase steps -/

section
variable {m : RenderMode} {s t : State}

theorem RenderMove.eq_of_setData (h : RenderMove m s t) (hp : s.phase = .setData) : t = phaseClockHigh s := by
  cases h with
  | clockHigh => rfl
  | _ => simp_all

theorem RenderMove.eq_of_clockHigh (h : RenderMove m s t) (hp : s.phase = .clockHigh) : t = phaseClockLow s := by
  cases h with
  | clockLow => rfl
  | _ => simp_all

theorem RenderMove.eq_of_bits_left (h : RenderMove m s t) (hp : s.phase = .clockLow) (hn : s.bitn ≠ 0) :
    t = phaseSetData (s.bitn.toNat - 1) s := by
  cases h with
  | nextBit => rfl
  | nextSlot _ hz => exact absurd hz hn
  | _ => simp_all

theorem RenderMove.eq_of_last_bit (h : RenderMove m s t) (hp : s.phase = .clockLow) (hn : s.bitn = 0) :
    t = advanceSlot m (phaseIdle s) := by
  cases h with
  | nextSlot => rfl
  | nextBit _ hz => exact absurd hn hz
  | _ => simp_all

theorem RenderMove.eq_of_idle (h : RenderMove m s t) (hp : s.phase = .idle) (hl : s.stage = .latch → s.lcnt ≠ 0) :
    t = beginSlot m s := by
  cases h with
  | begin => rfl
  | finish _ hs hz => exact absurd hz (hl hs)
  | _ => simp_all

/-- A step without reset of a render in progress is one of its moves. -/
theorem step_renderMove (h : BlockInv s) (hs : s.stage ≠ .none) (hr : (hostInput s).rst = false) :
    ∃ m t, step s = .next t ∧ RenderMove m (consumeInput s) t := by
  obtain ⟨t, ht⟩ := noStepStops s h
  obtain ⟨m, render⟩ := h.sequencer.active hs
  have hb : s.busy = true := Bool.of_not_eq_false fun hb => hs (h.sequencer.ready hb)
  refine ⟨m, t, ht, renderPhase_renderMove ?_⟩
  rw [consumeInput_eq, ← step_of_render hb hr hs render.mode, ht]

end

/-- Settles O50: the phase decides which move of the render the step is. -/
theorem phaseStepsFollowTheStateMachine : Obligations.PhaseStepsFollowTheStateMachine := by
  intro s h hs hr
  obtain ⟨m, t, ht, move⟩ := step_renderMove h hs hr
  have low : s.phase ≠ .clockHigh → s.ledClk = false := h.pins.clk_low
  refine ⟨fun hp => ⟨t, ht, ?_⟩, fun hp => ⟨t, ht, ?_⟩, fun hp hn => ⟨t, ht, ?_⟩, fun hp hn => ⟨t, ht, ?_⟩,
    fun hp hl => ⟨t, ht, ?_⟩⟩
  · rw [move.eq_of_setData hp]
    exact ⟨rfl, rfl, rfl, rfl, rfl, rfl⟩
  · rw [move.eq_of_clockHigh hp]
    exact ⟨rfl, rfl, rfl, rfl, rfl, rfl⟩
  · have hn' : s.bitn ≠ 0 := by rintro e; simp [e] at hn
    have bit : (BitVec.ofNat 3 (s.bitn.toNat - 1)).toNat = s.bitn.toNat - 1 :=
      toNat_ofNat_of_lt (by have := s.bitn.isLt; omega)
    rw [move.eq_of_bits_left hp hn']
    exact ⟨rfl, bit, low (by rw [hp]; nofun), rfl, rfl, lineBit_dataBits s.shift s.act _, rfl⟩
  · obtain ⟨_, _, _, _, place⟩ := advanceSlot_place m (phaseIdle (consumeInput s))
    rw [move.eq_of_last_bit hp (BitVec.eq_of_toNat_eq hn), place]
    exact ⟨rfl, low (by rw [hp]; nofun), rfl, rfl, rfl⟩
  · rw [move.eq_of_idle hp hl]
    exact ⟨rfl, rfl, low (by rw [hp]; nofun), rfl, lineBit_dataBits _ s.act 7, rfl⟩

/-! ### The pins around the clock -/

/-- After any pin state with the clock low, `w` keeps data and select around its clock pulses. -/
def StableAfterLow (w : List Pins) : Prop := ∀ p : Pins, p.clk = false → StablePins (p :: w)

theorem stableAfterLow_nil : StableAfterLow [] := fun p _ => List.isChain_singleton p

/-- While the clock stays low, data and select are free to change. -/
theorem StableAfterLow.cons_low {w : List Pins} (h : StableAfterLow w) (d sel : Byte) :
    StableAfterLow (⟨false, d, sel⟩ :: w) := by
  intro p hp
  exact List.isChain_cons_cons.2 ⟨fun hk => by simp [hp] at hk, h _ rfl⟩

/-- Over the pulse of a bit, data and select are the same. -/
theorem StableAfterLow.bitWire_append {w : List Pins} (h : StableAfterLow w) (d sel : Byte) :
    StableAfterLow (bitWire d sel ++ w) := by
  have pulse : StablePins (⟨false, d, sel⟩ :: ⟨true, d, sel⟩ :: ⟨false, d, sel⟩ :: w) :=
    List.isChain_cons_cons.2 ⟨fun _ => ⟨rfl, rfl⟩, List.isChain_cons_cons.2 ⟨fun _ => ⟨rfl, rfl⟩, h _ rfl⟩⟩
  intro p hp
  exact List.isChain_cons_cons.2 ⟨fun hk => by simp [hp] at hk, pulse⟩

theorem StableAfterLow.flatMap_append {α : Type} {f : α → List Pins}
    (hf : ∀ x w, StableAfterLow w → StableAfterLow (f x ++ w)) (l : List α) {w : List Pins}
    (h : StableAfterLow w) : StableAfterLow (l.flatMap f ++ w) := by
  induction l with
  | nil => exact h
  | cons x l ih => rw [List.flatMap_cons, List.append_assoc]; exact hf x _ ih

theorem StableAfterLow.slotWire_append {w : List Pins} (h : StableAfterLow w) (b : Lanes Byte) (act : Byte) :
    StableAfterLow (slotWire b act ++ w) := by
  rw [slotWire, List.append_assoc]
  exact .flatMap_append (fun _ _ h => h.bitWire_append _ _) _ (h.cons_low _ _)

theorem stableAfterLow_frameWire (m : RenderMode) (s : State) : StableAfterLow (frameWire m s) := by
  rw [← List.append_nil (frameWire m s)]
  exact .flatMap_append (fun _ _ h => h.slotWire_append _ _) _ stableAfterLow_nil

/-- From `s` to `t` the wire gains entries that, after the pins of `s`, are stable around the clock. -/
def GainsStable (s t : State) : Prop := ∃ g, wireTrace t = wireTrace s ++ g ∧ StablePins (pins s :: g)

section
variable {s t : State}

theorem gainsStable_of_wire_eq (h : t.wire = s.wire) : GainsStable s t :=
  ⟨[], by rw [wireTrace, h, wireTrace, List.append_nil], List.isChain_singleton _⟩

theorem gainsStable_of_recorded (hw : t.wire = pins t :: s.wire)
    (h : s.ledClk = true ∨ t.ledClk = true → s.ledData = t.ledData ∧ s.ledSel = t.ledSel) : GainsStable s t :=
  ⟨[pins t], by rw [wireTrace, hw, List.reverse_cons, wireTrace],
    List.isChain_cons_cons.2 ⟨h, List.isChain_singleton _⟩⟩

/-- A phase that leaves the clock low may move data and select. -/
theorem gainsStable_of_low (hw : t.wire = pins t :: s.wire) (hs : s.ledClk = false) (ht : t.ledClk = false) :
    GainsStable s t :=
  gainsStable_of_recorded hw fun hk => by simp [hs, ht] at hk

/-- Only a render writes to the wire, and its frame is stable. -/
theorem CommandEnd.gainsStable (h : CommandEnd s t) (hc : s.ledClk = false) : GainsStable s t := by
  cases h with
  | faulted c => exact gainsStable_of_wire_eq rfl
  | answered i _ => exact gainsStable_of_wire_eq (memoryEffect_outside i s).1.pins.wire
  | rendered m _ => exact ⟨frameWire m s, wireTrace_sendFrame m s hc, stableAfterLow_frameWire m s _ hc⟩

/-- The phases that move data or select begin and end with the clock low (spec/44_bit_transmit.md R174). -/
theorem RenderMove.gainsStable {m : RenderMode} (h : RenderMove m s t) (hpins : PinsOk s) : GainsStable s t := by
  have clk_low : s.phase ≠ .clockHigh → s.ledClk = false := hpins.clk_low
  cases h with
  | begin hp =>
    have low := clk_low (by rw [hp]; nofun)
    exact gainsStable_of_low rfl low low
  | finish => exact gainsStable_of_wire_eq rfl
  | clockHigh => exact gainsStable_of_recorded rfl fun _ => ⟨rfl, rfl⟩
  | clockLow => exact gainsStable_of_recorded rfl fun _ => ⟨rfl, rfl⟩
  | nextBit hp =>
    have low := clk_low (by rw [hp]; nofun)
    exact gainsStable_of_low rfl low low
  | nextSlot hp =>
    have low := clk_low (by rw [hp]; nofun)
    obtain ⟨_, _, _, _, place⟩ := advanceSlot_place m (phaseIdle s)
    rw [place]
    exact gainsStable_of_low rfl low low

/-- With `STAGE = NONE` the clock is low. -/
theorem BlockInv.clk_low_of_rest (h : BlockInv s) (hs : s.stage = .none) : s.ledClk = false :=
  h.pins.clk_low (by rw [(h.sequencer.none hs).1]; nofun)

theorem BlockMove.gainsStable {e : HostInput} (h : BlockMove e s t) (inv : BlockInv s) (hr : e.rst = false) :
    GainsStable s t := by
  cases h with
  | reset hr' => rw [hr] at hr'; cases hr'
  | wait => exact gainsStable_of_wire_eq rfl
  | accept => exact gainsStable_of_wire_eq rfl
  | whole _ hb h => exact h.gainsStable (inv.clk_low_of_rest (inv.sequencer.ready hb))
  | execute _ _ hs h => exact h.gainsStable (inv.clk_low_of_rest hs)
  | start => exact gainsStable_of_wire_eq rfl
  | phase _ _ _ _ _ h => exact h.gainsStable inv.pins

end

/-- Settles O56: every case of a step but the reset gains stable entries. -/
theorem pinsAreStableAroundTheClock : Obligations.PinsAreStableAroundTheClock :=
  fun s _ h hr hstep => (step_blockMove hstep).gainsStable (blockInv_withHost h s.host.tail) hr

/-! ### The wire at rest -/

/-- Settles O57: the state after the step meets the invariant, which says both. -/
theorem theWireRestsBetweenCommands : Obligations.TheWireRestsBetweenCommands := by
  intro s t h hstep
  have inv := everyStepKeepsTheInvariant s t h hstep
  refine ⟨fun hp => ⟨inv.pins.clk_low (by rw [hp]; nofun), inv.pins.sel.trans (if_pos hp)⟩, fun hb => ?_⟩
  have hs := inv.sequencer.ready hb
  obtain ⟨hp, hd⟩ := inv.sequencer.none hs
  exact ⟨hp, hs, hd⟩

end Sys2Proof.Machine

/-!
PROOF. The faults (spec/60_exceptions.md). A command reports the first fault of its operands and nothing else, and
`FAULT` itself is read by no command: with another `FAULT`, each thing a command does is done alike.
-/

namespace Sys2Proof.Machine

/-- Settles O16: the fault entry changes nothing else, and the two other ways a command can end complete it. -/
theorem commandReportsItsFirstFaultOnly : Obligations.CommandReportsItsFirstFaultOnly := by
  refine ⟨fun _ _ _ => exec_faults, fun i s t noFault h => ?_⟩
  obtain ⟨c, fault, -⟩ | ⟨-, hs, hm, rfl⟩ | ⟨m, -, -, rfl⟩ := exec_cases h
  · rw [noFault] at fault; cases fault
  · obtain ⟨-, completed, -⟩ := exec_completes noFault hs hm
    exact ⟨_, completed⟩
  · exact ⟨0, sendFrame_completed m s⟩

/-! ### `FAULT` is read by no command -/

/-- The state with another `FAULT` register. -/
def withFault (f : Byte) (s : State) : State := { s with fault := f }

section
variable (f : Byte) (s : State)

theorem memoryEffect_withFault (i : Instr) : memoryEffect i (withFault f s) = withFault f (memoryEffect i s) := by
  cases i <;> rfl

theorem answerOf_withFault (i : Instr) : answerOf i (withFault f s) = answerOf i s := by
  cases i <;> rfl

theorem txSlot_withFault (b : Lanes Byte) : txSlot b (withFault f s) = withFault f (txSlot b s) := rfl

theorem seekSlot_withFault (sl : Slot) : seekSlot sl (withFault f s) = withFault f (seekSlot sl s) := by
  cases sl <;> rfl

theorem sendSlot_withFault (m : RenderMode) (sl : Slot) :
    sendSlot m (withFault f s) sl = withFault f (sendSlot m s sl) := by
  rw [sendSlot, slotBytes_seekSlot_congr m sl (s := s) (t := withFault f s) rfl rfl rfl rfl rfl,
    seekSlot_withFault, txSlot_withFault, sendSlot]

theorem foldl_sendSlot_withFault (m : RenderMode) (l : List Slot) :
    l.foldl (sendSlot m) (withFault f s) = withFault f (l.foldl (sendSlot m) s) := by
  induction l generalizing s with
  | nil => rfl
  | cons sl l ih => rw [List.foldl_cons, sendSlot_withFault, ih, List.foldl_cons]

theorem sendFrame_withFault (m : RenderMode) : sendFrame m (withFault f s) = withFault f (sendFrame m s) :=
  congrArg renderFinish (foldl_sendSlot_withFault f (renderStart m s) m (frameSlots m s.cfg))

/-- A command ends alike but for `FAULT` with another `FAULT` before it. -/
theorem exec_withFault {i : Instr} {t : State} (h : exec i s = .next t) :
    ∃ g, exec i (withFault f s) = .next (withFault g t) := by
  obtain ⟨c, fault, rfl⟩ | ⟨noFault, hs, hm, rfl⟩ | ⟨m, mode, readable, rfl⟩ := exec_cases h
  · exact ⟨setFaultBit c f, exec_of_fault (s := withFault f s) fault⟩
  · refine ⟨f, (exec_of_no_fault (s := withFault f s) noFault hs hm).trans ?_⟩
    rw [answerOf_withFault, memoryEffect_withFault]
    rfl
  · have sent : renderFrame m (withFault f s) = .next (withFault f (sendFrame m s)) :=
      renderFrame_eq_next.2 ⟨(frameReadable_congr m rfl rfl rfl).trans readable, (sendFrame_withFault f s m).symm⟩
    obtain ⟨rfl, rfl⟩ | ⟨rfl, rfl⟩ := mode <;> exact ⟨f, sent⟩

end

/-- Settles O18: the end states agree but for `FAULT`, hence with the same value put in it. -/
theorem faultRegisterHasNoInfluence : Obligations.FaultRegisterHasNoInfluence := by
  intro i s t f h
  obtain ⟨g, ht⟩ := exec_withFault f s h
  exact ⟨withFault g t, ht, rfl⟩

end Sys2Proof.Machine

/-!
PROOF. Reset, and the end of a command in progress (spec/70_reset_and_hazards.md). A reset leaves the reset state
whatever came before. A render counts down: every phase step but the last records one pin state and leaves one
step less, whatever the host presents. So a busy block is ready after the steps left, and a reset after `j`
phase steps finds `j` entries of the frame on the wire.
-/

namespace Sys2Proof.Machine

/-! ### The reset -/

/-- Reset before everything (spec/70_reset_and_hazards.md R220). -/
theorem step_of_reset {s : State} (h : (hostInput s).rst = true) : step s = .next (resetBlock (consumeInput s)) := by
  simp [step, machineStep, reactTo, h]

theorem wireTrace_resetBlock (s : State) : wireTrace (resetBlock s) = wireTrace s ++ [⟨false, 0x00, 0x00⟩] := by
  simp [wireTrace]

/-- Settles O8: a step with `RST` is the reset, which is written as the reset state with the two records kept. -/
theorem resetGivesTheResetState : Obligations.ResetGivesTheResetState :=
  fun s h => ⟨resetBlock (consumeInput s), step_of_reset h, rfl, wireTrace_resetBlock (consumeInput s), rfl⟩

/-- The inputs and the records apart, the state a reset leaves depends on the parameters only. -/
theorem eq_resetOf_of_reset {s t : State} (hr : (hostInput s).rst = true) (h : step s = .next t) :
    { t with host := [], wire := [], responses := [] } =
      { State.resetOf s.cfg with host := [], wire := [], responses := [] } := by
  rw [step_of_reset hr] at h
  cases h
  rfl

/-- Settles O9: the two blocks have the same parameters. -/
theorem resetForgetsThePast : Obligations.ResetForgetsThePast := by
  intro s s' t t' hc hr hr' h h'
  rw [eq_resetOf_of_reset hr h, eq_resetOf_of_reset hr' h', hc]

/-! ### The steps a render has left -/

/-- The slots of the frame not yet completed, the one being sent included. -/
def slotsLeft (m : RenderMode) (s : State) : Nat :=
  match s.stage with
  | .none => 0
  | .payload => 3 * (m.length s.cfg - s.pos.toNat) - s.comp.toNat + m.latchCount s.cfg
  | .latch => s.lcnt.toNat

/-- The phase steps left of the slot being sent, or in `IDLE` of the next one. -/
def phasesLeft (s : State) : Nat :=
  match s.phase with
  | .idle => 25
  | .setData => 3 * s.bitn.toNat + 3
  | .clockHigh => 3 * s.bitn.toNat + 2
  | .clockLow => 3 * s.bitn.toNat + 1

/-- The steps a render has left: the phase steps of this slot, 25 for each slot after it, and the completion. -/
def stepsLeft (m : RenderMode) (s : State) : Nat := 25 * slotsLeft m s + phasesLeft s - 24

theorem slotsLeft_of_payload {m : RenderMode} {s : State} (h : s.stage = .payload) :
    slotsLeft m s = 3 * (m.length s.cfg - s.pos.toNat) - s.comp.toNat + m.latchCount s.cfg := by
  rw [slotsLeft, h]

theorem slotsLeft_of_latch {m : RenderMode} {s : State} (h : s.stage = .latch) : slotsLeft m s = s.lcnt.toNat := by
  rw [slotsLeft, h]

theorem slotsLeft_le {m : RenderMode} {s : State} (h : RenderOk m s) :
    slotsLeft m s ≤ 3 * m.length s.cfg + m.latchCount s.cfg := by
  cases hs : s.stage with
  | none => rw [slotsLeft, hs]; exact Nat.zero_le _
  | payload => rw [slotsLeft_of_payload hs]; omega
  | latch => rw [slotsLeft_of_latch hs]; exact (h.left hs).trans (Nat.le_add_left _ _)

theorem phasesLeft_le (s : State) : phasesLeft s ≤ 25 := by
  have := s.bitn.isLt
  unfold phasesLeft
  cases s.phase <;> dsimp only <;> omega

/-- The longer of the two frames, and a completion, bound what a render has left. -/
theorem stepsLeft_le {m : RenderMode} {s : State} (h : RenderOk m s) :
    stepsLeft m s ≤ 1 + 25 * (3 * max s.cfg.N1 s.cfg.NM + latchBytes (max s.cfg.N1 s.cfg.NM)) := by
  have slots := slotsLeft_le h
  have phases := phasesLeft_le s
  have longest : 3 * m.length s.cfg + m.latchCount s.cfg ≤
      3 * max s.cfg.N1 s.cfg.NM + latchBytes (max s.cfg.N1 s.cfg.NM) := by
    cases m <;> simp only [RenderMode.latchCount, RenderMode.length, latchBytes] <;> omega
  unfold stepsLeft
  omega

/-- At its start a render has its whole frame left, and its completion. -/
theorem stepsLeft_renderStart (m : RenderMode) {s : State} (hp : s.phase = .idle) :
    stepsLeft m (renderStart m s) = 25 * (frameSlots m s.cfg).length + 1 := by
  have slots : slotsLeft m (renderStart m s) = (frameSlots m s.cfg).length := by
    rw [slotsLeft_of_payload rfl, length_frameSlots]; rfl
  have phases : phasesLeft (renderStart m s) = 25 := by rw [phasesLeft, renderStart_phase, hp]
  rw [stepsLeft, slots, phases]
  omega

/-- Inside a slot there is that slot left. -/
theorem one_le_slotsLeft {m : RenderMode} {s : State} (h : RenderOk m s) (hs : s.stage ≠ .none)
    (hp : s.phase ≠ .idle) : 1 ≤ slotsLeft m s := by
  cases hg : s.stage with
  | none => exact absurd hg hs
  | payload =>
    obtain ⟨hpos, hcomp⟩ := h.place hg
    rw [slotsLeft_of_payload hg]; omega
  | latch => rw [slotsLeft_of_latch hg]; exact h.sending hg hp

/-- The advance of the sequencer registers leaves one slot less, and a slot or the latch run to go. -/
theorem slotsLeft_advanceSlot {m : RenderMode} {s : State} (hs : s.stage ≠ .none)
    (place : s.stage = .payload → s.pos.toNat < m.length s.cfg ∧ s.comp.toNat < 3) (left : 1 ≤ slotsLeft m s) :
    slotsLeft m (advanceSlot m s) + 1 = slotsLeft m s := by
  have hlen := length_range m s.cfg
  have hle := latchCount_le m s.cfg
  cases hg : s.stage with
  | none => exact absurd hg hs
  | payload =>
    obtain ⟨hpos, hcomp⟩ := place hg
    rw [slotsLeft_of_payload hg]
    by_cases hk : s.comp.toNat < 2
    · have next : (s.comp + 1).toNat = s.comp.toNat + 1 := by rw [BitVec.toNat_add]; simp; omega
      rw [advanceSlot_component hg hk, slotsLeft_of_payload (s := { s with comp := s.comp + 1 }) hg]
      dsimp only
      omega
    by_cases hn : s.pos.toNat + 1 < m.length s.cfg
    · have next : (s.pos + 1).toNat = s.pos.toNat + 1 := by rw [BitVec.toNat_add]; simp; omega
      have first : (0 : BitVec 2).toNat = 0 := rfl
      rw [advanceSlot_position hg hk hn, slotsLeft_of_payload (s := { s with pos := s.pos + 1, comp := 0 }) hg]
      dsimp only
      omega
    · have count : (BitVec.ofNat 12 (m.latchCount s.cfg)).toNat = m.latchCount s.cfg :=
        toNat_ofNat_of_lt (by omega)
      rw [advanceSlot_latchRun hg hk hn, slotsLeft_of_latch rfl]
      dsimp only
      omega
  | latch =>
    rw [slotsLeft_of_latch hg] at left ⊢
    have fewer : (s.lcnt - 1).toNat = s.lcnt.toNat - 1 := by rw [BitVec.toNat_sub]; simp; omega
    rw [advanceSlot_latchByte hg, slotsLeft_of_latch (s := { s with lcnt := s.lcnt - 1 }) hg]
    dsimp only
    omega

/-- A phase step inside a slot leaves one step less. -/
theorem stepsLeft_succ_of_phase {m : RenderMode} {s t : State} (slots : slotsLeft m t = slotsLeft m s)
    (phases : phasesLeft t + 1 = phasesLeft s) (more : 24 ≤ 25 * slotsLeft m s + phasesLeft t) :
    stepsLeft m t + 1 = stepsLeft m s := by
  unfold stepsLeft
  omega

/-- A phase step that is not the completion leaves one step less. -/
theorem RenderMove.stepsLeft_succ {m : RenderMode} {s t : State} (h : RenderMove m s t) (hr : RenderOk m s)
    (hs : s.stage ≠ .none) (ht : t.stage ≠ .none) : stepsLeft m t + 1 = stepsLeft m s := by
  have inside := one_le_slotsLeft hr hs
  cases h with
  | begin hp =>
    have first : phasesLeft (beginSlot m s) = 24 := rfl
    exact stepsLeft_succ_of_phase rfl (by rw [first, phasesLeft, hp]) (by omega)
  | finish => exact absurd rfl ht
  | clockHigh hp =>
    have left := inside (by rw [hp]; nofun)
    exact stepsLeft_succ_of_phase rfl (by simp [phasesLeft, hp]) (by omega)
  | clockLow hp =>
    have left := inside (by rw [hp]; nofun)
    exact stepsLeft_succ_of_phase rfl (by simp [phasesLeft, hp]) (by omega)
  | nextBit hp hn =>
    have left := inside (by rw [hp]; nofun)
    have pos : s.bitn.toNat ≠ 0 := fun e => hn (BitVec.eq_of_toNat_eq e)
    have bit : (BitVec.ofNat 3 (s.bitn.toNat - 1)).toNat = s.bitn.toNat - 1 :=
      toNat_ofNat_of_lt (by have := s.bitn.isLt; omega)
    refine stepsLeft_succ_of_phase rfl ?_ (by omega)
    simp only [phasesLeft, hp, phaseSetData_phase, phaseSetData_bitn, bit]
    omega
  | nextSlot hp hn =>
    have left := inside (by rw [hp]; nofun)
    have fewer := slotsLeft_advanceSlot (s := phaseIdle s) hs hr.place left
    obtain ⟨_, _, _, _, place⟩ := advanceSlot_place m (phaseIdle s)
    have last : phasesLeft s = 1 := by rw [phasesLeft, hp, hn]; rfl
    have next : phasesLeft (advanceSlot m (phaseIdle s)) = 25 := by rw [place]; rfl
    have same : slotsLeft m (phaseIdle s) = slotsLeft m s := rfl
    rw [stepsLeft, stepsLeft, last, next]
    omega

/-! ### The phase steps of a render -/

/-- A render is in progress in mode `m`. -/
structure Rendering (m : RenderMode) (s : State) : Prop where
  inv : BlockInv s
  busy : s.busy = true
  stage : s.stage ≠ .none
  mode : activeMode s = some m

theorem Rendering.ok {m : RenderMode} {s : State} (h : Rendering m s) : RenderOk m s :=
  h.inv.sequencer.renderOk h.stage h.mode

/-- After `j` phase steps of a render: there are `j` steps less to go, `WIRE` has gained `j` pin states and no
response was given. -/
structure PhasesSent (m : RenderMode) (j : Nat) (s t : State) : Prop where
  rendering : Rendering m t
  left : stepsLeft m t + j = stepsLeft m s
  wire : ∃ g, g.length = j ∧ wireTrace t = wireTrace s ++ g
  cfg : t.cfg = s.cfg
  responses : t.responses = s.responses

theorem phasesSent_zero {m : RenderMode} {s : State} (h : Rendering m s) : PhasesSent m 0 s s :=
  ⟨h, rfl, ⟨[], rfl, (List.append_nil _).symm⟩, rfl, rfl⟩

theorem PhasesSent.trans {m : RenderMode} {j k : Nat} {s t u : State} (h : PhasesSent m j s t)
    (h' : PhasesSent m k t u) : PhasesSent m (j + k) s u := by
  obtain ⟨g, length, gained⟩ := h.wire
  obtain ⟨g', length', gained'⟩ := h'.wire
  refine ⟨h'.rendering, by rw [← h.left, ← h'.left]; omega, ⟨g ++ g', ?_, ?_⟩, h'.cfg.trans h.cfg,
    h'.responses.trans h.responses⟩
  · rw [List.length_append, length, length']
  · rw [gained', gained, List.append_assoc]

theorem advanceSlot_stage_ne_none (m : RenderMode) {s : State} (hs : s.stage ≠ .none) :
    (advanceSlot m s).stage ≠ .none := by
  unfold advanceSlot
  cases hg : s.stage with
  | none => exact absurd hg hs
  | payload => dsimp only; split_ifs <;> nofun
  | latch => simp

/-- A phase step of a render is its completion, or records the pins and the render goes on. -/
theorem RenderMove.sends {m : RenderMode} {s t : State} (h : RenderMove m s t) (hs : s.stage ≠ .none) :
    (stepsLeft m s = 1 ∧ t = renderFinish s) ∨ (t.wire = pins t :: s.wire ∧ t.responses = s.responses ∧
      t.busy = s.busy ∧ t.stage ≠ .none ∧ activeMode t = activeMode s) := by
  cases h with
  | finish hp hg hl => exact .inl ⟨by rw [stepsLeft, slotsLeft_of_latch hg, hl, phasesLeft, hp]; rfl, rfl⟩
  | nextSlot =>
    have stage := advanceSlot_stage_ne_none m (s := phaseIdle s) hs
    obtain ⟨_, _, _, _, place⟩ := advanceSlot_place m (phaseIdle s)
    rw [place] at stage ⊢
    exact .inr ⟨rfl, rfl, rfl, stage, rfl⟩
  | _ => exact .inr ⟨rfl, rfl, rfl, hs, rfl⟩

/-- The next phase step of a render: the completion when one step is left, and else a phase step sent. -/
theorem Rendering.renderPhase_cases {m : RenderMode} {s : State} (h : Rendering m s) :
    (stepsLeft m s = 1 ∧ renderPhase m s = .next (renderFinish s)) ∨
      ∃ t, renderPhase m s = .next t ∧ PhasesSent m 1 s t := by
  obtain ⟨t, ht⟩ := renderPhase_answers h.stage h.ok h.inv.indices
  have move := renderPhase_renderMove ht
  obtain ⟨last, rfl⟩ | ⟨wire, responses, busy, stage, mode⟩ := move.sends h.stage
  · exact .inl ⟨last, ht⟩
  · exact .inr ⟨t, ht, ⟨blockInv_renderMove h.inv h.busy h.stage h.mode move, busy.trans h.busy, stage,
      mode.trans h.mode⟩, move.stepsLeft_succ h.ok h.stage stage,
      ⟨[pins t], rfl, by rw [wireTrace, wire, List.reverse_cons, wireTrace]⟩, move.keeps.cfg, responses⟩

/-- The state with other inputs to come. -/
def withHost (l : List HostInput) (s : State) : State := { s with host := l }

theorem beginSlot_withHost (m : RenderMode) (l : List HostInput) (s : State) :
    beginSlot m (withHost l s) = withHost l (beginSlot m s) := by
  rw [beginSlot, slotBytes_congr m (s := s) (t := withHost l s) rfl rfl rfl rfl rfl rfl rfl rfl]
  rfl

theorem advanceSlot_withHost (m : RenderMode) (l : List HostInput) (s : State) :
    advanceSlot m (withHost l s) = withHost l (advanceSlot m s) := by
  cases hs : s.stage with
  | none => simp [advanceSlot, withHost, hs]
  | payload =>
    by_cases hk : s.comp.toNat < 2
    · rw [advanceSlot_component hs hk, advanceSlot_component (s := withHost l s) hs hk]; rfl
    by_cases hp : s.pos.toNat + 1 < m.length s.cfg
    · rw [advanceSlot_position hs hk hp, advanceSlot_position (s := withHost l s) hs hk hp]; rfl
    · rw [advanceSlot_latchRun hs hk hp, advanceSlot_latchRun (s := withHost l s) hs hk hp]; rfl
  | latch => rw [advanceSlot_latchByte hs, advanceSlot_latchByte (s := withHost l s) hs]; rfl

/-- A phase step of a render does not read what the host presents. -/
theorem renderPhase_withHost {m : RenderMode} {s t : State} (h : renderPhase m s = .next t) (l : List HostInput) :
    renderPhase m (withHost l s) = .next (withHost l t) := by
  cases renderPhase_renderMove h with
  | begin hp hr =>
    rw [← beginSlot_withHost]
    cases hg : s.stage with
    | none => simp [SlotReady, hg] at hr
    | payload =>
      simp only [SlotReady, hg] at hr
      exact renderPhase_payload (s := withHost l s) hp hg hr.1 (by cases m <;> exact hr.2)
    | latch =>
      simp only [SlotReady, hg] at hr
      exact (renderPhase_latch (s := withHost l s) hp hg).trans (if_neg hr)
  | finish hp hg hl => exact (renderPhase_latch (s := withHost l s) hp hg).trans (if_pos hl)
  | clockHigh hp =>
    have hp' : (withHost l s).phase = .setData := hp
    rw [renderPhase, hp']; rfl
  | clockLow hp =>
    have hp' : (withHost l s).phase = .clockHigh := hp
    rw [renderPhase, hp']; rfl
  | nextBit hp hn => exact renderPhase_clockLow (s := withHost l s) hp hn
  | nextSlot hp hn =>
    have hp' : (withHost l s).phase = .clockLow := hp
    have hn' : (withHost l s).bitn = 0 := hn
    rw [← advanceSlot_withHost, renderPhase, hp']
    exact if_pos hn'

/-- A step of a render in progress, without reset, is its phase step whatever the host presents. -/
theorem Rendering.step_withHost {m : RenderMode} {s t : State} (h : Rendering m s) {l : List HostInput}
    (hq : QuietFor 1 (withHost l s)) (ht : renderPhase m s = .next t) :
    step (withHost l s) = .next (withHost (l.drop 1) t) :=
  (step_of_render (s := withHost l s) h.busy (hostInput_rst_of_quiet hq) h.stage h.mode).trans
    (renderPhase_withHost ht (l.drop 1))

/-- A render of which more than `j` steps are left sends `j` phase steps, whatever the host presents beside a reset. -/
theorem Rendering.run_phases {m : RenderMode} (j : Nat) {s : State} (h : Rendering m s) (hj : j < stepsLeft m s) :
    ∃ t, PhasesSent m j s t ∧
      ∀ l, QuietFor j (withHost l s) → run j (withHost l s) = .next (withHost (l.drop j) t) := by
  induction j generalizing s with
  | zero => exact ⟨s, phasesSent_zero h, fun l _ => rfl⟩
  | succ j ih =>
    obtain ⟨last, -⟩ | ⟨t, ht, sent⟩ := h.renderPhase_cases
    · omega
    obtain ⟨u, sent', hrun⟩ := ih sent.rendering (by have := sent.left; omega)
    refine ⟨u, Nat.add_comm 1 j ▸ sent.trans sent', fun l hq => ?_⟩
    have quiet : QuietFor j (withHost (l.drop 1) t) :=
      quietFor_inputsTaken (n := 1) (s := withHost l s) (by rwa [Nat.add_comm])
    rw [run_succ_of_next (h.step_withHost (quietFor_mono hq (Nat.le_add_left 1 j)) ht), hrun _ quiet, List.drop_drop,
      Nat.add_comm]

theorem Rendering.one_le_stepsLeft {m : RenderMode} {s : State} (h : Rendering m s) : 1 ≤ stepsLeft m s := by
  obtain ⟨last, -⟩ | ⟨t, -, sent⟩ := h.renderPhase_cases
  · exact last.ge
  · exact sent.left ▸ Nat.le_add_left 1 _

/-- A render that is not reset completes after the steps left, and keeps what is on the wire. -/
theorem Rendering.run_completes {m : RenderMode} {s : State} (h : Rendering m s) (hq : QuietFor (stepsLeft m s) s) :
    ∃ t g, run (stepsLeft m s) s = .next t ∧ t.busy = false ∧ t.rspValid = true ∧
      wireTrace t = wireTrace s ++ g := by
  obtain ⟨j, hj⟩ : ∃ j, stepsLeft m s = j + 1 := ⟨stepsLeft m s - 1, by have := h.one_le_stepsLeft; omega⟩
  rw [hj] at hq ⊢
  obtain ⟨u, sent, hrun⟩ := h.run_phases j (by omega)
  have left := sent.left
  obtain ⟨-, finished⟩ | ⟨v, -, more⟩ := sent.rendering.renderPhase_cases
  · obtain ⟨g, -, gained⟩ := sent.wire
    have phases := hrun s.host (quietFor_mono (s := s) hq (Nat.le_succ j))
    have last := sent.rendering.step_withHost (quietFor_inputsTaken (n := j) (s := s) hq) finished
    exact ⟨_, g, (run_add phases 1).trans (run_one_of_next last), rfl, rfl, gained⟩
  · have := more.left
    have := more.rendering.one_le_stepsLeft
    omega

/-! ### A busy block completes -/

/-- The start of a render, from a block at rest that has accepted it. -/
theorem rendering_renderStart {m : RenderMode} {s : State} (h : BlockInv s) (hb : s.busy = true)
    (hs : s.stage = .none) (hm : activeMode s = some m) : Rendering m (renderStart m s) :=
  ⟨blockInv_renderStart h hb hs hm, hb, nofun, hm⟩

theorem CommandEnd.completed {s t : State} (h : CommandEnd s t) : t.busy = false ∧ t.rspValid = true := by
  cases h <;> exact ⟨rfl, rfl⟩

/-- Settles O53: a command that is no render ends in one step, and a render, once started, in the steps it has left. -/
theorem busyBlockCompletes : Obligations.BusyBlockCompletes := by
  intro s h hb hq
  have quiet : ∀ n, QuietFor n s := fun n e he => hq e (List.mem_of_mem_take he)
  have one := step_of_busy hb (hostInput_rst_of_quiet (quiet 1))
  have taken : BlockInv (inputsTaken 1 s) := blockInv_withHost h _
  by_cases hs : s.stage = .none
  · cases hm : activeMode s with
    | none =>
      obtain ⟨t, ht⟩ := runCommand_answers taken.indices
      have completed := (runCommand_commandEnd ht).completed
      exact ⟨1, t, by omega, run_one_of_next ((one.trans (blockStep_of_command hs hm)).trans ht), completed⟩
    | some m =>
      have started := rendering_renderStart taken hb hs hm
      obtain ⟨t, -, hrun, hready, hvalid, -⟩ := started.run_completes (quietFor_inputsTaken (n := 1) (quiet _))
      have bound : stepsLeft m (renderStart m (inputsTaken 1 s)) ≤
          1 + 25 * (3 * max s.cfg.N1 s.cfg.NM + latchBytes (max s.cfg.N1 s.cfg.NM)) := stepsLeft_le started.ok
      exact ⟨_, t, by omega, (run_succ_of_next (one.trans (blockStep_of_start hs hm)) _).trans hrun, hready, hvalid⟩
  · obtain ⟨m, hr⟩ := h.sequencer.active hs
    have bound := stepsLeft_le hr
    obtain ⟨t, -, hrun, hready, hvalid, -⟩ := (⟨h, hb, hs, hr.mode⟩ : Rendering m s).run_completes (quiet _)
    exact ⟨_, t, by omega, hrun, hready, hvalid⟩

/-! ### A reset inside a render -/

theorem rendering_withHost {m : RenderMode} {s : State} (h : Rendering m s) (l : List HostInput) :
    Rendering m (withHost l s) :=
  ⟨blockInv_withHost h.inv l, h.busy, h.stage, h.mode⟩

theorem quietFor_withHost_nil (n : Nat) (s : State) : QuietFor n (withHost [] s) := by
  simp [QuietFor, withHost]

/-- The frame depends on the memories and the parameters only. -/
theorem frameWire_congr (m : RenderMode) {s t : State} (hc : t.cfg = s.cfg) (hp : t.pal = s.pal) (h1 : t.fb1 = s.fb1)
    (hm : t.fbm = s.fbm) : frameWire m t = frameWire m s := by
  have bytes : ∀ sl, slotBytes m (seekSlot sl (renderStart m t)) = slotBytes m (seekSlot sl (renderStart m s)) :=
    fun sl => slotBytes_seekSlot_congr m sl hc hp h1 hm (congrArg m.lines hc)
  simp only [frameWire, bytes, hc]

section
variable {m : RenderMode} {s : State} (h : BlockInv s) (hb : s.busy = true) (hs : s.stage = .none)
  (hm : activeMode s = some m)
include h hb hs hm

/-- With no more inputs a render sends its whole frame in the steps it has left at its start. -/
theorem run_alone_sends_frame :
    ∃ t, run (stepsLeft m (renderStart m s)) (withHost [] (renderStart m s)) = .next t ∧
      wireTrace t = wireTrace s ++ frameWire m s := by
  have idle := (h.sequencer.none hs).1
  have low := h.clk_low_of_rest hs
  have readable : frameReadable m (withHost [] s) = true :=
    frameReadable_of_indicesOk m (indicesOk_congr h.indices rfl rfl rfl)
  rw [stepsLeft_renderStart m idle]
  exact ⟨_, run_frame m (withHost [] s) hb hm idle low readable (quietFor_withHost_nil _ s),
    (wireTrace_sendFrame m (inputsTaken _ (withHost [] s)) low).trans
      (congrArg (wireTrace s ++ ·) (frameWire_congr m rfl rfl rfl rfl))⟩

/-- After `j` phase steps a render has sent the first `j` entries of its frame: undisturbed it would send the whole
frame, and no step takes an entry back. -/
theorem wireTrace_of_phasesSent {j : Nat} {u : State} (sent : PhasesSent m j (renderStart m s) u)
    (hrun : run j (withHost [] (renderStart m s)) = .next (withHost [] u)) :
    wireTrace u = wireTrace s ++ (frameWire m s).take j := by
  obtain ⟨t, whole, frame⟩ := run_alone_sends_frame h hb hs hm
  obtain ⟨t', g', rest, -, -, gained'⟩ :=
    (rendering_withHost sent.rendering []).run_completes (quietFor_withHost_nil _ u)
  have same : t = t' := by
    rw [← sent.left, Nat.add_comm, run_add hrun] at whole
    exact Host.Outcome.next.inj (whole.symm.trans rest)
  obtain ⟨g, length, gained⟩ := sent.wire
  have gained : wireTrace u = wireTrace s ++ g := gained
  have gained' : wireTrace t = wireTrace u ++ g' := same ▸ gained'
  have split : g ++ g' = frameWire m s := by
    refine List.append_cancel_left (as := wireTrace s) ?_
    rw [← frame, gained', gained, List.append_assoc]
  rw [gained, ← split, List.take_left' length]

end

/-- The opcode of the render in mode `m` (spec/30_encoding.md R75). -/
def renderOpcode : RenderMode → Byte
  | .single => 0x50
  | .multi => 0x51

theorem activeMode_accepted_render (m : RenderMode) (l : List HostInput) (s : State) :
    activeMode (accepted (renderOpcode m) 0 l s) = some m := by cases m <;> rfl

/-- A ready block accepts the command of a render, and starts the render in the next step. -/
theorem run_accept_start {s : State} (m : RenderMode) (hb : s.busy = false) (hs : s.stage = .none)
    (l : List HostInput) :
    run 2 { s with host := offer false (renderOpcode m) 0 :: HostInput.idle :: l } =
      .next (renderStart m (accepted (renderOpcode m) 0 l s)) := by
  have accepts : step { s with host := offer false (renderOpcode m) 0 :: HostInput.idle :: l } =
      .next (accepted (renderOpcode m) 0 (HostInput.idle :: l) s) := by
    simp [step, machineStep, reactTo, hostInput, consumeInput, offer, cmdReady, accept, accepted, hb]
  have starts : step (accepted (renderOpcode m) 0 (HostInput.idle :: l) s) =
      .next (renderStart m (accepted (renderOpcode m) 0 l s)) :=
    (step_of_busy rfl rfl).trans (blockStep_of_start hs (activeMode_accepted_render m l s))
  rw [run_succ_of_next accepts, run_one_of_next starts]

/-- A ready block to which a render is presented has, `j` phase steps into the frame, sent its first `j` entries. -/
theorem run_into_render {s : State} {j : Nat} (m : RenderMode) (h : BlockInv s) (hb : s.busy = false)
    (hj : j ≤ (frameWire m s).length) :
    ∃ u, wireTrace u = wireTrace s ++ (frameWire m s).take j ∧ u.cfg = s.cfg ∧ u.responses = s.responses ∧
      ∀ l, QuietFor j (withHost l s) →
        run (2 + j) { s with host := offer false (renderOpcode m) 0 :: HostInput.idle :: l } =
          .next (withHost (l.drop j) u) := by
  have hs := h.sequencer.ready hb
  have inv : BlockInv (accepted (renderOpcode m) 0 [] s) := blockInv_accept (blockInv_withHost h []) hs _ _
  have mode := activeMode_accepted_render m [] s
  have steps := stepsLeft_renderStart m (s := accepted (renderOpcode m) 0 [] s) (h.sequencer.none hs).1
  have frame : (frameWire m s).length = 25 * (frameSlots m s.cfg).length := by
    rw [length_frameSlots]; exact (frameWire_counts m s).1
  have more : j < stepsLeft m (renderStart m (accepted (renderOpcode m) 0 [] s)) :=
    (hj.trans frame.le).trans_lt (steps ▸ Nat.lt_succ_self _)
  obtain ⟨u, sent, hrun⟩ := (rendering_renderStart inv rfl hs mode).run_phases j more
  have wire := wireTrace_of_phasesSent inv rfl hs mode sent (by simpa using hrun [] (quietFor_withHost_nil _ _))
  refine ⟨u, ?_, sent.cfg, sent.responses, fun l hq => (run_add (run_accept_start m hb hs l) j).trans (hrun l hq)⟩
  rwa [frameWire_congr m (s := s) (t := accepted (renderOpcode m) 0 [] s) rfl rfl rfl rfl] at wire

/-- Settles O52: acceptance, start and `j` phase steps leave the reset as the next input. -/
theorem resetInsideARenderCutsTheFrame : Obligations.ResetInsideARenderCutsTheFrame := by
  intro s m j h hb hj
  obtain ⟨u, wire, cfg, responses, hrun⟩ := run_into_render m h hb hj
  have quiet : QuietFor j (withHost (List.replicate j HostInput.idle ++ [resetInput]) s) := by
    intro e he
    rw [withHost, List.take_left' List.length_replicate] at he
    rw [List.eq_of_mem_replicate he]
  have before := hrun _ quiet
  rw [List.drop_left' List.length_replicate] at before
  have reset : step (withHost [resetInput] u) = .next (resetBlock (withHost [] u)) := step_of_reset rfl
  refine ⟨resetBlock (withHost [] u), ?_, ?_, ?_⟩
  · rw [show j + 3 = 2 + j + 1 by omega, List.replicate_succ, List.cons_append]
    exact (run_add before 1).trans (run_one_of_next reset)
  · rw [← wire]
    exact wireTrace_resetBlock _
  · rw [← cfg, ← responses]
    rfl

end Sys2Proof.Machine

/-!
PROOF. The two directions of the encoding (spec/30_encoding.md). The fields of a format lie one below the other in
`arg`, so each operand of a command that a word decodes to is one field of the word, the operand word of that
command is `arg` again, and operands that fit their fields are the fields of some number.
-/

namespace Sys2Proof

/-! ### The round trip -/

/-- Settles O1: every operand is read back from its own field of the command's word. -/
theorem decodeOfEncodeIsTheCommand : Obligations.DecodeOfEncodeIsTheCommand := decode_encode

/-- The operand fields of a format and its reserved field are the whole of `arg` (spec/30_encoding.md R71, R74). -/
theorem encodeArg_build {m : Mnemonic} {arg : BitVec 32} (h : reservedZero m.format arg = true) :
    encodeArg (m.build arg) = arg := by
  have := arg.isLt
  rw [reservedZero_iff] at h
  refine BitVec.eq_of_toNat_eq ?_
  rw [toNat_encodeArg]
  cases m <;> simp only [Mnemonic.build, Mnemonic.format, Format.reserved, argNat, toNat_field] at h ⊢ <;> omega

/-- Settles O2: a word that decodes is the opcode of its command and an `arg` with its reserved field zero. -/
theorem encodeOfDecodeIsTheWord : Obligations.EncodeOfDecodeIsTheWord := by
  intro w i h
  obtain ⟨m, hop, hr, rfl⟩ := decodeParts_eq_ok.1 h
  rw [encode, mnemonic_build, encodeArg_build hr, ← hop, append_parts]

/-! ### The operands as fields -/

/-- The field `(bits, position)` of the number `n`. -/
def fieldOf (n : Nat) (f : Nat × Nat) : Nat := n / 2 ^ f.2 % 2 ^ f.1

/-- What stands from bit `k` on is not in a field below bit `k`. -/
theorem fieldOf_add {k : Nat} {f : Nat × Nat} (h : f.2 + f.1 ≤ k) (a b : Nat) :
    fieldOf (2 ^ k * a + b) f = fieldOf b f := by
  obtain ⟨d, rfl⟩ := Nat.exists_eq_add_of_le h
  rw [fieldOf, fieldOf, Nat.pow_add, Nat.pow_add, Nat.mul_assoc, Nat.mul_assoc, Nat.mul_add_div (by positivity),
    Nat.mul_add_mod]

theorem operands_build (m : Mnemonic) (arg : BitVec 32) :
    (m.build arg).operands = m.fields.map (fieldOf arg.toNat) := by
  cases m <;> simp only [Mnemonic.build, Instr.operands, Mnemonic.fields, List.map, fieldOf, toNat_field]

/-- Every operand field is inside `arg` (spec/30_encoding.md R71). -/
theorem fields_le (m : Mnemonic) : ∀ f ∈ m.fields, f.2 + f.1 ≤ 32 := by cases m <;> decide

/-- Each operand field is below the one before it (spec/30_encoding.md R71, R80). -/
theorem fields_pairwise (m : Mnemonic) : m.fields.Pairwise fun f g => g.2 + g.1 ≤ f.2 := by cases m <;> decide

/-- Settles O4: the operands are fields of `arg`, and the opcode stands above them. -/
theorem operandsAreTheFieldsOfTheWord : Obligations.OperandsAreTheFieldsOfTheWord := by
  intro w i h
  obtain ⟨m, hop, hr, rfl⟩ := decodeParts_eq_ok.1 h
  have word := toNat_word (w.extractLsb' 32 8) (w.extractLsb' 0 32)
  rw [append_parts, Nat.mul_comm] at word
  rw [operands_build, mnemonic_build]
  refine List.map_congr_left fun f hf => ?_
  rw [word]
  exact (fieldOf_add (fields_le m f hf) _ _).symm

/-! ### The assembler -/

/-- Values that fit fields lying one below the other are the fields of one number. -/
theorem exists_map_fieldOf_eq {vs : List Nat} {fs : List (Nat × Nat)} (fit : List.Forall₂ (fun v f => v < 2 ^ f.1) vs fs)
    {top : Nat} (le : ∀ f ∈ fs, f.2 + f.1 ≤ top) (below : fs.Pairwise fun f g => g.2 + g.1 ≤ f.2) :
    ∃ n < 2 ^ top, fs.map (fieldOf n) = vs := by
  induction fit generalizing top with
  | nil => exact ⟨0, by positivity, rfl⟩
  | @cons v f vs fs hv _ ih =>
    obtain ⟨rest, below⟩ := List.pairwise_cons.1 below
    obtain ⟨n, hn, rfl⟩ := ih rest below
    refine ⟨2 ^ f.2 * v + n, ?_, List.cons_eq_cons.2 ⟨?_, List.map_congr_left fun g hg => fieldOf_add (rest g hg) v n⟩⟩
    · calc 2 ^ f.2 * v + n < 2 ^ f.2 * (v + 1) := by rw [Nat.mul_succ]; exact Nat.add_lt_add_left hn _
        _ ≤ 2 ^ f.2 * 2 ^ f.1 := Nat.mul_le_mul_left _ hv
        _ = 2 ^ (f.2 + f.1) := (Nat.pow_add ..).symm
        _ ≤ 2 ^ top := Nat.pow_le_pow_right (by decide) (le f List.mem_cons_self)
    · rw [fieldOf, Nat.mul_add_div (by positivity), Nat.div_eq_of_lt hn, Nat.add_zero, Nat.mod_eq_of_lt hv]

/-- A line the assembler takes is the textual form of a command (spec/30_encoding.md R80). -/
theorem exists_source_eq_of_wf {l : SourceLine} (h : l.wf = true) : ∃ i : Instr, i.source = l := by
  obtain ⟨length, fits⟩ := l.wf_iff.1 h
  have fit : List.Forall₂ (fun v f => v < 2 ^ f.1) l.operands l.mnemonic.fields :=
    List.forall₂_iff_zip.2 ⟨length, fun hx => fits _ hx⟩
  obtain ⟨n, hn, fields⟩ := exists_map_fieldOf_eq fit (fields_le l.mnemonic) (fields_pairwise l.mnemonic)
  refine ⟨l.mnemonic.build (BitVec.ofNat 32 n), ?_⟩
  rw [Instr.source, mnemonic_build, operands_build, BitVec.toNat_ofNat, Nat.mod_eq_of_lt hn, fields]

/-- The assembler and the encoder lay the operands out alike. -/
theorem arg_source (i : Instr) : i.source.arg = encodeArg i := by
  cases i with
  | palSetc idx r g b => exact (Laws.Assembly.palSetc idx r g b).2
  | palSetp idx rgb => exact (Laws.Assembly.palSetp idx rgb).2
  | palSethsv idx h s v => exact (Laws.Assembly.palSethsv idx h s v).2
  | palCycle num => exact (Laws.Assembly.palCycle num).2
  | palGet idx => exact (Laws.Assembly.palGet idx).2
  | fb1Fill val => exact (Laws.Assembly.fb1Fill val).2
  | fb1Set pos val => exact (Laws.Assembly.fb1Set pos val).2
  | fbmFill val => exact (Laws.Assembly.fbmFill val).2
  | fbmSet strip pos val => exact (Laws.Assembly.fbmSet strip pos val).2
  | fbmGet strip pos => exact (Laws.Assembly.fbmGet strip pos).2
  | fbmSetxy x y val => exact (Laws.Assembly.fbmSetxy x y val).2
  | fbmGetxy x y => exact (Laws.Assembly.fbmGetxy x y).2
  | xfRowcol x y => exact (Laws.Assembly.xfRowcol x y).2
  | xfLatchlen n => exact (Laws.Assembly.xfLatchlen n).2
  | renderS => exact Laws.Assembly.renderS.2
  | renderM => exact Laws.Assembly.renderM.2

theorem assemble_eq_none_iff (l : SourceLine) : assemble l = none ↔ ¬ l.wf = true := by simp [assemble]

theorem assemble_eq_some {l : SourceLine} {w : CommandWord} (h : assemble l = some w) :
    l.wf = true ∧ l.mnemonic.opcode ++ l.arg = w := by simpa [assemble] using h

/-- Settles O6: a line the assembler takes is the textual form of a command, whose word it gives. -/
theorem assemblerRefusesOnlyWhatDoesNotFit : Obligations.AssemblerRefusesOnlyWhatDoesNotFit := by
  refine fun l => ⟨by rw [assemble_eq_none_iff, SourceLine.wf_iff], fun w hw => ?_⟩
  obtain ⟨wf, rfl⟩ := assemble_eq_some hw
  obtain ⟨i, rfl⟩ := exists_source_eq_of_wf wf
  have word : encode i = i.source.mnemonic.opcode ++ i.source.arg := by rw [arg_source, encode, Instr.source]
  exact ⟨i, rfl, word, word ▸ decode_encode i⟩

/-! ### The examples of the spec -/

/-- Settles O5: the eighteen words of spec/30_encoding.md section 7, each decoded. -/
theorem exampleWordsDecode : Obligations.ExampleWordsDecode := by
  unfold Obligations.ExampleWordsDecode
  decide

end Sys2Proof

/-!
PROOF. A command accepted in a step of its own (spec/10_state.md R35): the step of its acceptance, and the step
after it, which executes a command that is no render.
-/

namespace Sys2Proof.Machine

/-- A ready block accepts a presented word. -/
theorem step_of_offered {s : State} {op : Byte} {arg : BitVec 32} {rest : List HostInput}
    (hb : s.busy = false) (hh : s.host = offer false op arg :: rest) :
    step s = .next (accepted op arg rest s) := by
  simp [step, machineStep, reactTo, hostInput, consumeInput, offer, cmdReady, accept, accepted, hb, hh]

theorem activeMode_of_not_render {s : State} {i : Instr} (hf : fetch s = .ok i)
    (hi : i ≠ .renderS ∧ i ≠ .renderM) : activeMode s = none := by
  rw [activeMode, hf]
  cases i with
  | renderS => exact absurd rfl hi.1
  | renderM => exact absurd rfl hi.2
  | _ => rfl

/-- A busy block that holds a command that is no render executes it in its next step without reset. -/
theorem step_of_held_command {s : State} {i : Instr} (hb : s.busy = true) (hs : s.stage = .none)
    (hr : (hostInput s).rst = false) (hf : fetch s = .ok i) (hi : i ≠ .renderS ∧ i ≠ .renderM) :
    step s = exec i (consumeInput s) := by
  have held : fetch (consumeInput s) = .ok i := hf
  calc step s = blockStep (consumeInput s) := by rw [step_of_busy hb hr, consumeInput_eq]
    _ = runCommand (consumeInput s) := blockStep_of_command hs (activeMode_of_not_render held hi)
    _ = exec i (consumeInput s) := runCommand_of_fetch_ok held

/-- Settles O11: the accepted word is the one the busy block holds in its next step. -/
theorem acceptanceWritesTheCommandRegister : Obligations.AcceptanceWritesTheCommandRegister := by
  refine fun s op arg rest hb hh => ⟨step_of_offered hb hh, fun i hi hns hnm hs hr => ?_⟩
  have fetched : fetch (accepted op arg rest s) = .ok i := (decode_append op arg).symm.trans hi
  exact step_of_held_command (s := accepted op arg rest s) rfl hs hr fetched ⟨hns, hnm⟩

end Sys2Proof.Machine
